-- ==== Sys2Proof/Word.lean ====
section
/-! DEFINITION. The words of the SPM-160 (R3, R10, R13, R22) and their plainest arithmetic. -/

namespace Sys2Proof

/-- Eight bits. -/
abbrev Byte := BitVec 8

/-- An instruction word, a vector element or an FP32 datum: 32 bits. -/
abbrev HWord := BitVec 32

/-- A scalar register, an address register or a CSR: 64 bits. -/
abbrev Word := BitVec 64

/-- A vector register's image of 4,096 bytes: element (row, col) of R13 is the 32 bits from
bit 32 × (64 × row + col) on, so that bit 8 × b on holds byte b of the scratchpad layout. -/
abbrev VImage := BitVec 32768

/-- A mask of R22: bit 64 × row + col governs element (row, col). -/
abbrev Mask := BitVec 1024

/-- One bit as a word. -/
def Word.ofBool (b : Bool) : Word := if b then 1 else 0

/-- The bits [hi:lo] of a natural number, as a natural number. -/
def natBits (n hi lo : Nat) : Nat := n / 2 ^ lo % 2 ^ (hi + 1 - lo)

end Sys2Proof
end

