-- ==== Sys2Proof/Config.lean ====
section
/-! DEFINITION. What an implementation of the SPM-160 fixes and what the manual leaves open.
Every constant here is opaque: nothing can evaluate one or prove a value of it. -/

namespace Sys2Proof.Config

/-- The n-th free value of a run, of any width (log 4). -/
opaque freeBits (w : Nat) (n : Nat) : BitVec w

/-- The n-th free delay of a run, in ticks; the use clamps it into the manual's bound (log 16). -/
opaque delay : Nat → Nat

/-- The free choices of the special functions of R59 away from their exact points and fixed edges (log 5): for each
function, the index being the opcode's place in 0x60 to 0x67, one number at each node of a binary tree over its inputs. -/
opaque special : Fin 8 → Nat → Nat

/-- Whether 0 × ∞ + a quiet NaN signals NV: IEEE 754-2019 leaves it to the implementation (log 17). -/
opaque fmaInvalid : Bool

/-- The floor level of a cluster as its part is fused: L0, L1 or L2 (R389). -/
opaque floorLevel : Fin 40 → Fin 3

/-- The floor level FL of a cluster among the eight levels. -/
def fusedLevel (k : Fin 40) : Fin 8 := Fin.ofNat 8 (floorLevel k).val

/-- Which line of a full set of the system cache leaves it for another, by the tick and the line (log 10). -/
opaque sysVictim : Nat → Nat → Nat

/-- Is the debug-enable fuse of the package blown (R397)? -/
opaque debugFuse : Bool

/-- The measurement hash SHAKE256 of the manual (R375, R377), as a 512-bit digest (log 15). -/
opaque shake256 : List Byte → BitVec 512

/-- The code of the state DOWN in the link event's VALUE, which R371 does not give (log 4). -/
opaque downCode : BitVec 8

/-- The order in which a switch sums a collective's contributions (R272): a permutation index (log 4). -/
opaque sumOrder : Nat → List Nat → List Nat

end Sys2Proof.Config
end

