-- ==== Sys2Proof/Fields.lean ====
section
/-! DEFINITION. The operand codes of the instruction words (R77, R78) and the names of R7: what the
constructors of Instr carry. -/

namespace Sys2Proof

/-! ### Names of R7 -/

abbrev XReg := Fin 32
abbrev AReg := Fin 16
abbrev VReg := Fin 32
abbrev RtReg := Fin 8
abbrev BayNo := Fin 64
abbrev LevelNo := Fin 6
abbrev SlotNo := Fin 16
abbrev TileNo := Fin 160
abbrev ClusterNo := Fin 40
abbrev PartNo := Fin 40
abbrev CtxNo := Fin 4
abbrev QueueNo := Fin 16
abbrev PortNo := Fin 12
/-- A function of the host link: 0 is the PF and n + 1 is VF n (R370). -/
abbrev FuncNo := Fin 65

/-! ### Operand codes -/

/-- COND of BR (R104). -/
inductive Cond | al | eq | ne | lt | ge | ltu | geu
  deriving DecidableEq, Repr

/-- The predicates of FCMP and VCMP.F (R132, R151). -/
inductive FPred | eq | lt | le | un | ne
  deriving DecidableEq, Repr

/-- The predicates of VCMP.I (R151). -/
inductive IPred | eq | ne | lt | le | ltu | leu
  deriving DecidableEq, Repr

/-- The conversions of FCVT (R132). -/
inductive FcvtOp | f2l | f2w | l2f | w2f
  deriving DecidableEq, Repr

/-- The three directions of AMOV with their registers (R133). -/
inductive AmovOp
  | toA (d : AReg) (a : XReg)
  | fromA (d : XReg) (a : AReg)
  | aToA (d a : AReg)
  deriving DecidableEq, Repr

/-- A V source operand and its last-use bit (R15). -/
structure VUse where
  reg : VReg
  last : Bool
  deriving DecidableEq, Repr

/-- The second source of a two-source vector instruction: Vb, or Xb when S = 1 (R140). -/
inductive VOrX
  | v (u : VUse)
  | x (r : XReg)
  deriving DecidableEq, Repr

/-- The amount of a rotation or broadcast: IMM[5:0] or an X register (R156). -/
inductive VAmt
  | imm (n : BitVec 6)
  | reg (x : XReg)
  deriving DecidableEq, Repr

/-- The operation of VREDR and VREDC (R158). -/
inductive RedOp | add | max | min | iadd
  deriving DecidableEq, Repr

/-- The record width of VNARW and VWIDN (R162). -/
inductive RecWidth | rb8 | rb6 | rb4
  deriving DecidableEq, Repr

/-- The conversion code CV of VCVT (R160). -/
inductive VcvtOp | f2h | f2b | h2f | b2f | f2w | f2s | f2c | w2f | s2f | c2f
  deriving DecidableEq, Repr

/-- The type codes FA and FB (R165). -/
inductive MType | rb8 | rb6 | rb4 | fp16 | bf16
  deriving DecidableEq, Repr

/-- An access size SZ (R186): 8, 4, 2 or 1 bytes. -/
inductive Size | d | w | h | b
  deriving DecidableEq, Repr

/-- The location of a form N instruction: bay, address register, post-step, displacement (R186). -/
structure PLoc where
  bay : BayNo
  ai : AReg
  ps : Bool
  disp : BitVec 24
  deriving DecidableEq, Repr

/-- The operation of PATOM (R198). -/
inductive PatomOp | add | and | or | xor | smin | smax | umax | swap
  deriving DecidableEq, Repr

/-- The entry of BAYCFG: the IMM image, or the X register that holds it (R199). -/
inductive BayEntry
  | imm (own : BitVec 4) (keep sync shadow : Bool) (size base : BitVec 12)
  | reg (x : XReg)
  deriving DecidableEq, Repr

/-- A data-form address of the G slot (R202). -/
structure GAddr where
  ai : AReg
  ps : Bool
  disp : BitVec 32
  deriving DecidableEq, Repr

/-- SCOPE (R202). -/
inductive Scope | part | ctx | tile | clu | dev | grp
  deriving DecidableEq, Repr

/-- A synchronising-form address of the G slot without its scope (R202). -/
structure SAddr where
  xa : XReg
  disp : BitVec 29
  deriving DecidableEq, Repr

/-- The operation of GATOM (R202). -/
inductive GatomOp | add | and | or | xor | smin | smax | umin | umax | swap
  deriving DecidableEq, Repr

/-- The operation of REL (R210). -/
inductive RelOp | none | st | add
  deriving DecidableEq, Repr

/-- LEVEL of GPREF (R202). -/
inductive PrefLevel | l1 | clu | sys
  deriving DecidableEq, Repr

/-- A source space of the copy control word (R211). -/
inductive SrcSpace | global | bay | mram
  deriving DecidableEq, Repr

/-- A destination space of the copy control word (R211). -/
inductive DstSpace | global | bay | bank
  deriving DecidableEq, Repr

/-- The copy control word (R211): SLOT is present when SLOTEN is 1, PGRP when DEFER is 1. -/
structure CopyCtl where
  slot : Option SlotNo
  defer : Option (Fin 16)
  bout : Bool
  bin : Bool
  keep : Bool
  dsp : DstSpace
  ssp : SrcSpace
  deriving DecidableEq, Repr

/-- STRM of CFEED (R222) with the type tag of its panels. -/
inductive Feed
  | af (ty : MType)
  | bf (ty : MType)
  | mq
  deriving DecidableEq, Repr

/-- The slots CABRT names: one, or all (R211). -/
inductive AbortSel
  | slot (n : SlotNo)
  | all
  deriving DecidableEq, Repr

/-- SEL of SNSTAT (R246). -/
inductive SnSel
  | word (n : Fin 6)
  | hits | misses | collisions | evictions | live | budget
  deriving DecidableEq, Repr

/-- DT of COLL (R268). -/
inductive CollType | f32 | bf16
  deriving DecidableEq, Repr

/-- OP of COLL (R268), as the rows of the opcode table name it. -/
inductive CollKind | allreduce | redscat | allgath | bcast
  deriving DecidableEq, Repr

/-- The COLL control word without OP (R268); true spaces are bays. -/
structure CollCtl where
  gslot : Fin 16
  slot : Option SlotNo
  dt : CollType
  bout : Bool
  bin : Bool
  dbay : Bool
  sbay : Bool
  deriving DecidableEq, Repr

/-- The bounds of WAITC (R115). -/
structure Bounds where
  ld : BitVec 6
  st : BitVec 6
  cp : BitVec 5
  tok : BitVec 4
  deriving DecidableEq, Repr

/-- The live masks of WAITB and TCONT (R118): bits 1 to 31 of `x`, A0 to A15, V0 to V15. -/
structure Live where
  x : BitVec 32
  a : BitVec 16
  v : BitVec 16
  deriving DecidableEq, Repr

/-! ### What the machine's own steps carry -/

/-- A deferred engine fault's record (R312). -/
structure DefRec where
  detail : BitVec 8
  opc : BitVec 8
  slotno : BitVec 4
  addr : BitVec 64
  deriving DecidableEq, Repr

/-- Who performs a signal step: a context's TSIG, a fired timer, a queue's SIGNAL (R123, R124, R345). -/
inductive SigSrc
  | tsig (t : TileNo) (c : CtxNo) (tid : Nat)
  | timer (t : TileNo) (c : CtxNo)
  | queue (f : FuncNo) (q : QueueNo)
  deriving DecidableEq, Repr

/-- What a step at a barrier does (R192, R194, R195, R198, R216). -/
inductive BarOp
  | arrive (gen : BitVec 4)
  | wait (d : XReg)
  | atom (op : PatomOp) (d : XReg) (x : BitVec 64)
  | register (cmd : Nat) (inn out : Bool)
  | lower (inn out : Bool)
  | abandon (head cnt : Nat)
  deriving DecidableEq, Repr

/-- What a Lantern step does, with the operand values read at issue (R239); a deposit waits for the copies
issued before it, whose identities lie below `behind` (R241). -/
inductive LanOp
  | find (d : XReg) (h : BitVec 64) (run : List (BitVec 32)) (peek : Bool)
  | put (d : XReg) (h a n : BitVec 64) (cost : BitVec 32) (behind : Nat)
  | rel (h : BitVec 64)
  | hold (h : BitVec 64)
  | stat (d : XReg) (h : BitVec 64) (sel : SnSel)
  | create (d : XReg) (r : BitVec 64) (gl : Fin 7) (expl : Bool) (limit : BitVec 32)
  | destroy (d : XReg) (h : BitVec 64)
  | flush (d : XReg) (h : BitVec 64)
  deriving DecidableEq, Repr

/-- Where a mapping proposal came from (R373, R376). -/
inductive PropSrc
  | mailbox (f : FuncNo)
  | ring (f : FuncNo)
  deriving DecidableEq, Repr

/-- A switch of a roster: its index, its parent, ATT (R262). -/
structure Switch where
  index : Nat
  parent : Option Nat
  att : Bool
  deriving DecidableEq, Repr

/-- A roster (R262): members in rank order with DN and access switch. -/
structure Roster where
  epoch : BitVec 16
  fence : Nat
  members : List (BitVec 6 × Option Nat)
  switches : List Switch
  deriving DecidableEq, Repr

/-- What a member's COLL asks for (R270). -/
structure CollOffer where
  op : CollKind
  dt : CollType
  n : Nat
  root : BitVec 6
  deriving DecidableEq, Repr

/-- What a message of a reduction holds: the sum of this member's segment from its switch, the sum of the segments
before it from their last leader, or the result (R271, R437). -/
inductive CollStage | segment | acc | total
  deriving DecidableEq, Repr

/-- A message of a collective as it reaches this member: a member's data, a sum or the result of a reduction, a message
whose tag fails, or a failure that another member passes on with its code (R273, R275, R437). -/
inductive CollMsg
  | data (xs : List (BitVec 32))
  | part (stage : CollStage) (xs : List (BitVec 32))
  | badTag
  | failed (code : Nat)
  deriving DecidableEq, Repr

/-- A host access to a device-bias page (R298), or a write of a word of a function's BAR and SR-IOV configuration (R378). -/
inductive HostAcc
  | read (f : FuncNo) (va : Nat) (n : Nat)
  | write (f : FuncNo) (va : Nat) (bytes : List Byte)
  | writeHost (a : Nat) (bytes : List Byte)
  | config (f : FuncNo) (i : Nat) (v : BitVec 64)
  deriving DecidableEq, Repr

/-- An access from a peer device, carried out at this device's memory (R255). -/
inductive PeerAcc
  | read (pa : Nat) (n : Nat)
  | write (pa : Nat) (bytes : List Byte)
  | atom (op : GatomOp) (pa : Nat) (x : BitVec 64)
  deriving DecidableEq, Repr

/-- Where an error of stored or moving data was found (R331, R337, R394, R395): a 64-byte unit of device memory, of a
tile's MRAM or of its scratchpad, a record of a tile's undo log by its place, a line of an L1 or of a cluster cache by its
key, a line of the system cache by its number, a node of the Lantern, the hub's memory with the partition whose data it held,
a 256-byte unit that an engine moves for a command, a flit of the host link, or a 64-byte unit of a peer's memory, which
comes marked from there (R382). -/
inductive ErrAt
  | dram (unit : Nat)
  | mram (t : TileNo) (unit : Nat)
  | scratch (t : TileNo) (unit : Nat)
  | undo (t : TileNo) (i : Nat)
  | l1 (t : TileNo) (key : Nat)
  | cluster (k : ClusterNo) (key : Nat)
  | system (line : Nat)
  | node (slot : Nat)
  | hub (p : Option PartNo)
  | engine (t : TileNo) (cmd i : Nat)
  | hostLink
  | peer (dn unit : Nat)
  deriving DecidableEq, Repr

/-- An error found, and whether the code over it corrected it (R394). -/
structure MemErr where
  at_ : ErrAt
  corrected : Bool
  deriving DecidableEq, Repr

/-- A resource that a step of BOOT may find failed (R399): an LPDDR-6 channel that does not train, a tile's MRAM controller,
the fuses or the hub configuration, the Gondola's bitstream, the PCIe link, a Tetherlink port. -/
inductive BootPart
  | channel (n : Fin 48)
  | mram (t : TileNo)
  | fuses
  | gondola
  | pcie
  | port (q : PortNo)
  deriving DecidableEq, Repr

/-- How the firmware, bitstream and self-test checks of the steps of BOOT end (R399), the key drawn, and the tiles
whose resume record or swept units fail their CRCs (R329). `linkUp` are the ports that train, with the peers the
routing table reaches through each; `failed` are the other resources whose step fails. -/
structure BootVerdict where
  firmware : Bool
  bitstream : Bool
  key : BitVec 6
  failedSensors : List TileNo
  linkUp : List (PortNo × List (BitVec 6))
  badRecords : List TileNo
  failed : List BootPart
  deriving DecidableEq, Repr

end Sys2Proof
end

