-- ==== Sys2Proof/Syntax.lean ====
section
/-! DEFINITION. The instructions and the machine's own steps: one constructor for each row of
spec/opcode_table.json, with the operands of R77 and the operand tables of R100, R130, R140, R164,
R186, R202, R211, R238, R265 and R267, and the parameters of each event. -/

namespace Sys2Proof

/-- One constructor for each row of the opcode table: the instruction words of R79, the three verbs
of a launch prologue (R349), and the steps of the machine itself. -/
inductive Instr
  -- control, sequencer and tasks (R100)
  | nop
  | br (cond : Cond) (a b : XReg) (off : BitVec 32)
  | bri (a : XReg)
  | call (d : XReg) (off : BitVec 32)
  | calli (d a : XReg)
  | ret (a : XReg)
  | brmz (off : BitVec 32)
  | brmf (off : BitVec 32)
  | lset (l : LevelNo) (a : XReg) (count : BitVec 24)
  | lstr (l : LevelNo) (i : AReg) (stride : BitVec 32)
  | lrun (lo hi : LevelNo) (n : BitVec 7)
  | lbrk (l : LevelNo) (a : XReg)
  | waitc (b : Bounds)
  | waitb (s a g : XReg) (live : Live)
  | yield
  | texit
  | tspawn (d a b : XReg) (count : BitVec 16)
  | tcont (s a b : XReg) (live : Live)
  | tsig (a b : XReg) (addend : BitVec 32)
  | tdep (a : XReg) (amount : BitVec 16)
  | ifence
  | banksw (a : XReg)
  | halt
  | tarm (d t a b : XReg) (relt : Bool)
  -- scalar (R130)
  | add (d a b : XReg)
  | sub (d a b : XReg)
  | addi (d a : XReg) (imm : BitVec 32)
  | mul (d a b : XReg)
  | mulh (d a b : XReg)
  | fcmp (p : FPred) (d a b : XReg)
  | div (d a b : XReg)
  | divu (d a b : XReg)
  | rem (d a b : XReg)
  | fcvt (op : FcvtOp) (d a : XReg)
  | and (d a b : XReg)
  | or (d a b : XReg)
  | xor (d a b : XReg)
  | shl (d a b : XReg)
  | shr (d a b : XReg)
  | sar (d a b : XReg)
  | min (d a b : XReg)
  | max (d a b : XReg)
  | slt (d a b : XReg)
  | sltu (d a b : XReg)
  | sel (d a b c : XReg)
  | bfx (d a b c : XReg)
  | bfi (d a b c : XReg)
  | clz (d a : XReg)
  | popc (d a : XReg)
  | li (d : XReg) (imm : BitVec 64)
  | amov (op : AmovOp)
  | fadd (d a b : XReg)
  | fmul (d a b : XReg)
  | ffma (d a b c : XReg)
  -- vector (R140)
  | vaddF (d : VReg) (a : VUse) (b : VOrX)
  | vaddI (d : VReg) (a : VUse) (b : VOrX)
  | vsubF (d : VReg) (a : VUse) (b : VOrX)
  | vsubI (d : VReg) (a : VUse) (b : VOrX)
  | vmulF (d : VReg) (a : VUse) (b : VOrX)
  | vmulI (d : VReg) (a : VUse) (b : VOrX)
  | vfmaF (d : VReg) (a : VUse) (b : VOrX)
  | vminF (d : VReg) (a : VUse) (b : VOrX)
  | vmaxF (d : VReg) (a : VUse) (b : VOrX)
  | vminI (d : VReg) (a : VUse) (b : VOrX)
  | vmaxI (d : VReg) (a : VUse) (b : VOrX)
  | vabsF (d : VReg) (a : VUse)
  | vnegF (d : VReg) (a : VUse)
  | vand (d : VReg) (a : VUse) (b : VOrX)
  | vor (d : VReg) (a : VUse) (b : VOrX)
  | vxor (d : VReg) (a : VUse) (b : VOrX)
  | vshl (d : VReg) (a : VUse) (b : VOrX)
  | vshr (d : VReg) (a : VUse) (b : VOrX)
  | vsar (d : VReg) (a : VUse) (b : VOrX)
  | vcmpF (p : FPred) (a : VUse) (b : VOrX)
  | vcmpI (p : IPred) (a : VUse) (b : VOrX)
  | vsel (d : VReg) (a : VUse) (b : VOrX)
  | vmov (d : VReg) (a : VOrX)
  | vacc (d : VReg) (r : RtReg)
  | vrdt (d : VReg) (r : RtReg)
  | vrotr (d : VReg) (a : VUse) (n : VAmt)
  | vrotc (d : VReg) (a : VUse) (n : VAmt)
  | vbcr (d : VReg) (a : VUse) (n : VAmt)
  | vbcc (d : VReg) (a : VUse) (n : VAmt)
  | vredr (op : RedOp) (d : VReg) (a : VUse)
  | vredc (op : RedOp) (d : VReg) (a : VUse)
  | vtrn (d : VReg) (a : VUse)
  | vexp2 (d : VReg) (a : VUse)
  | vlog2 (d : VReg) (a : VUse)
  | vexp (d : VReg) (a : VUse)
  | vlog (d : VReg) (a : VUse)
  | vrcp (d : VReg) (a : VUse)
  | vrsq (d : VReg) (a : VUse)
  | vtanh (d : VReg) (a : VUse)
  | vsigm (d : VReg) (a : VUse)
  | vcvt (op : VcvtOp) (d : VReg) (a : VUse)
  | vnarw (w : RecWidth) (d : VReg) (a : VUse)
  | vwidn (w : RecWidth) (d : VReg) (a : VUse)
  | mpush
  | minv
  | mpop
  -- matrix (R164): n is the K-step count less one
  | mma (r : RtReg) (n : BitVec 5) (fa fb : MType) (acc : Bool)
  | mmaf (r : RtReg) (n : BitVec 5) (fa fb : MType) (acc : Bool)
  | mmas (r : RtReg) (n : BitVec 4) (fa fb : MType) (acc : Bool)
  | mzero (r : RtReg) (te : Option (BitVec 9))
  | mput (r : RtReg) (a : VUse)
  | mskip (n : BitVec 5) (sa sb : Option MType) (sq : Bool)
  | mdrain (sa sb sq : Bool)
  | mstat (d : XReg) (r : RtReg)
  -- scratchpad (R186)
  | pld (d : VReg) (l : PLoc)
  | pst (v : VUse) (l : PLoc)
  | pldb (d : VReg) (l : PLoc) (row nr : BitVec 4)
  | pstb (v : VUse) (l : PLoc) (row nr : BitVec 4)
  | plds (d : VReg) (l : PLoc) (str : BitVec 8)
  | psts (v : VUse) (l : PLoc) (str : BitVec 8)
  | pldx (d : VReg) (l : PLoc) (i : VUse)
  | pstx (v : VUse) (l : PLoc) (i : VUse)
  | pstm (v : VUse) (l : PLoc)
  | patom (op : PatomOp) (d : XReg) (l : PLoc) (x : XReg)
  | patomR (op : PatomOp) (d r x : XReg)
  | binit (x : XReg) (force : Bool) (l : PLoc)
  | barv (g : XReg) (l : PLoc)
  | barvR (g r : XReg)
  | bwait (d : XReg) (l : PLoc)
  | bwaitR (d r : XReg)
  | pstsc (sz : Size) (x : XReg) (l : PLoc)
  | pldsc (sx : Bool) (sz : Size) (d : XReg) (l : PLoc)
  | baycfg (d : XReg) (bay : BayNo) (e : BayEntry)
  | bayst (d : XReg) (bay : BayNo)
  | bayrel (bay : BayNo)
  -- global memory (R202)
  | gld (sx : Bool) (sz : Size) (d : XReg) (g : GAddr)
  | gst (sz : Size) (x : XReg) (g : GAddr)
  | gldv (d : VReg) (g : GAddr)
  | gstv (v : VUse) (g : GAddr)
  | gatom (op : GatomOp) (sc : Scope) (d x : XReg) (e : SAddr)
  | gcas (sc : Scope) (d n : XReg) (e : SAddr)
  | acq (sc : Scope) (d : XReg) (e : SAddr)
  | rel (op : RelOp) (sc : Scope) (b : XReg) (e : SAddr)
  | acqs (sc : Scope) (d b : XReg) (e : SAddr)
  | bind (d b c : XReg) (e : SAddr)
  | unbind (d : XReg) (e : SAddr)
  | gfence (sc : Scope)
  | gpref (lvl : PrefLevel) (g : GAddr)
  | ginv (n : XReg) (g : GAddr)
  | gwb (n : XReg) (g : GAddr)
  | gldc (sx : Bool) (sz : Size) (d : XReg) (g : GAddr)
  | gstc (sz : Size) (x : XReg) (g : GAddr)
  | gprobe (d : XReg) (g : GAddr)
  -- engines (R211)
  | cpy (b s d r : XReg) (ctl : CopyCtl)
  | cpyi (b s d : XReg) (ctl : CopyCtl) (bytes : BitVec 32)
  | cfeed (n s p : XReg) (f : Feed) (ssp : SrcSpace)
  | pub (mask : BitVec 16)
  | cstat (d : XReg) (n : SlotNo)
  | cabrt (sel : AbortSel)
  | snfind (d h r n : XReg) (peek : Bool)
  | snput (d h a n : XReg) (cost : BitVec 32)
  | snget (p h d s : XReg) (slot : Option SlotNo) (defer : Option (Fin 16)) (dbay : Bool)
  | snrel (h : XReg)
  | snstat (d h : XReg) (sel : SnSel)
  | snhold (h : XReg)
  | collAllreduce (b s d : XReg) (ctl : CollCtl) (n : BitVec 29)
  | collRedscat (b s d : XReg) (ctl : CollCtl) (n : BitVec 29)
  | collAllgath (b s d : XReg) (ctl : CollCtl) (n : BitVec 29)
  | collBcast (b s d r : XReg) (ctl : CollCtl) (n : BitVec 29)
  | cgrpJoin (d h : XReg) (gslot : Fin 16)
  | cgrpLeave (d : XReg) (gslot : Fin 16)
  | mwr (s m n : XReg) (slot : Option SlotNo) (sbay : Bool)
  | mcmt (n : SlotNo)
  | mabt (n : SlotNo)
  | mwear (d m : XReg) (kind : Bool)
  | tilewk (a : XReg) (hold : BitVec 16)
  | tileoff (a : XReg)
  | evpost (a : XReg) (event : BitVec 12)
  | cpys (e s d r : XReg) (ctl : CopyCtl)
  | sncfgCreate (d r : XReg) (gl : Fin 7) (expl : Bool) (limit : BitVec 32)
  | sncfgDestroy (d h : XReg)
  | sncfgFlush (d h : XReg)
  | cpyb (m s d r : XReg) (ctl : CopyCtl)
  -- system (R100)
  | csrr (d : XReg) (csr : BitVec 12)
  | csrw (d a : XReg) (csr : BitVec 12)
  | csrs (d a : XReg) (csr : BitVec 12)
  | csrc (d a : XReg) (csr : BitVec 12)
  | trap (code : BitVec 20)
  | eret
  | sysc (code : BitVec 20)
  | pwrq (d a : XReg)
  -- the verbs of a launch prologue (R349)
  | emit
  | done
  | cancel
  -- results and accesses
  | matrixResult (t : TileNo) (c : CtxNo)
  | gAccessCompletion (t : TileNo) (c : CtxNo) (id : Nat)
  | deferredFaultArrival (t : TileNo) (c : CtxNo) (tid : Nat) (r : DefRec)
  -- engines
  | copyStart (t : TileNo) (id : Nat)
  | copyPublish (t : TileNo) (id : Nat)
  | lastSourceRead (t : TileNo) (id : Nat)
  | cfeedPanelAvailable (t : TileNo) (id : Nat)
  -- tasks, signals, barriers, the Lantern
  | tspawnCheck (t : TileNo) (c : CtxNo) (tid : Nat) (p : PartNo) (slot : Nat) (gen : BitVec 8)
  | taskTableStep (t : TileNo) (c : CtxNo) (tid : Nat) (p : PartNo) (handle : BitVec 64) (amount : Nat)
  | signalStep (src : SigSrc) (p : PartNo) (addr addend : BitVec 64)
  | waitRegistration (t : TileNo) (c : CtxNo) (p : PartNo) (idx : Nat) (bar : Bool) (obj arg : BitVec 64)
  | barrierReferenceStep (t : TileNo) (c : CtxNo) (tid : Nat) (op : BarOp) (r : BitVec 64)
  | lanternStep (t : TileNo) (c : CtxNo) (tid : Nat) (op : LanOp)
  | journalApplyComplete (t : TileNo) (id : Nat)
  | windDownComplete (t : TileNo) (c : CtxNo)
  | timerDeadline (p : PartNo) (idx : Nat)
  -- the distributor
  | preemption (t : TileNo) (c : CtxNo)
  | selection (t : TileNo) (c : CtxNo)
  | binding (t : TileNo) (c : CtxNo)
  | bankLoadComplete (t : TileNo) (bank : Bool)
  | restore (t : TileNo) (c : CtxNo)
  | launchComplete (p : PartNo) (slot : Nat)
  -- command queues
  | queueNop (f : FuncNo) (q : QueueNo)
  | launch (f : FuncNo) (q : QueueNo)
  | fence (f : FuncNo) (q : QueueNo)
  | waits (f : FuncNo) (q : QueueNo)
  | waitsReread (f : FuncNo) (q : QueueNo)
  | signal (f : FuncNo) (q : QueueNo)
  | prologue (f : FuncNo)
  | ttRelease (p : PartNo) (e : Fin 64)
  -- power
  | tileIdle (t : TileNo)
  | offDelay (t : TileNo)
  | tileWake (t : TileNo)
  | levelChangeComplete (k : ClusterNo)
  | levelRecoveryStep
  | clusterCounterSample
  | forcedLatchSave (t : TileNo) (c : CtxNo)
  | partitionResume (p : PartNo)
  -- links and collectives
  | retrainComplete (port : PortNo)
  | collectiveMatch (p : PartNo) (group : BitVec 16) (seq : Nat) (offers : List (Nat × CollOffer))
  | collectivePublish (p : PartNo) (group : BitVec 16) (seq : Nat)
  -- partitions and the mailbox
  | mappingRemovalComplete (p : PartNo) (va : Nat)
  | flipComplete (p : PartNo) (va : Nat)
  | scrubComplete (frame : Nat)
  -- the management port
  | patrolScrub
  | tilewkHoldExpiry (t : TileNo)
  | flrComplete (f : FuncNo)
  | journalWriteComplete (t : TileNo) (id : Nat)
  -- what reaches the machine from outside
  | powerFail
  | powerGood (v : BootVerdict)
  | safeTierCheckpoint (parts : BitVec 40) (stay : Bool)
  | gAccessFault (t : TileNo) (c : CtxNo) (id : Nat) (code : BitVec 8)
  | interruptPost (t : TileNo) (c : CtxNo) (n : BitVec 10)
  | strikeReport (t : TileNo)
  | knownAnswerMismatch (t : TileNo)
  | qtail (f : FuncNo) (q : QueueNo) (v : BitVec 64)
  | qcfg (f : FuncNo) (q : QueueNo) (v : BitVec 64)
  | ptpMessage (port : Nat) (time : BitVec 64)
  | throttleStep (hot : Bool)
  | recoveryImageWrite (valid : Bool)
  | freeze
  | freezeRelease
  | flr (f : FuncNo)
  | linkDown (port : PortNo)
  | laneRetire (port : PortNo) (lane : Fin 9)
  | linkCrcFail (port : PortNo) (lane : Fin 9)
  | rosterInstall (p : PartNo) (group : BitVec 16) (r : Roster)
  | pcreate (f : FuncNo)
  | pdestroy (f : FuncNo)
  | assign (f : FuncNo)
  | reclaim (f : FuncNo)
  | map (src : PropSrc)
  | unmap (src : PropSrc)
  | bias (src : PropSrc)
  | protect (f : FuncNo)
  | mptail (f : FuncNo) (v : BitVec 64)
  | pset (f : FuncNo)
  | preset (f : FuncNo)
  | qexport (f : FuncNo)
  | qimport (f : FuncNo)
  | dirty (f : FuncNo)
  | gbind (f : FuncNo) (valid : Bool)
  | lockInterface (f : FuncNo)
  | startInterface (f : FuncNo)
  | stopInterface (f : FuncNo)
  | registerWrite (f : FuncNo) (off : BitVec 16) (wide : Bool) (v : BitVec 64)
  | dnAssignment (dn : BitVec 6)
  | portReset (port : PortNo)
  | tileReinstate (t : TileNo)
  | defaultLevelSet (k : ClusterNo) (l : Fin 8)
  | budgetLevelSet (k : ClusterNo) (l : Fin 8)
  | offDelaySet (p : PartNo) (ns : Nat)
  | securedSessionEnd (p : PartNo) (group : BitVec 16) (r : Roster)
  | sessionKeyDelivery (p : PartNo) (handle : BitVec 64) (rank : Nat) (key : Option (BitVec 256))
  | ideStreamFailure (f : FuncNo)
  | hostMemoryAccess (acc : HostAcc)
  | peerAccessRequest (acc : PeerAcc)
  | collectiveMessageArrival (p : PartNo) (group : BitVec 16) (seq rank : Nat) (msg : CollMsg)
  | writeBackFailure (p : PartNo) (obj : Nat)
  | ptpSourceAssignment (port : Nat)
  | errorThresholdSet (port : PortNo) (n : Nat)
  -- what the clock of a tile does by itself
  | resultClock (t : TileNo) (c : CtxNo)
  | renameSpill (t : TileNo)
  | trapEntry (t : TileNo) (c : CtxNo)
  | segmentCommit (t : TileNo) (c : CtxNo)
  | watchdogExpiry (t : TileNo) (c : CtxNo)
  | quantumExpiry (t : TileNo) (c : CtxNo)
  deriving DecidableEq, Repr

end Sys2Proof
end

