-- ==== Sys2Proof/WellFormed.lean ====
section
/-! DEFINITION. The limits on an instruction's operands that the types of its constructor do not
already hold (R100, R104, R118, R156, R164, R186, R211, R244, R245, R267). -/

namespace Sys2Proof

/-- The control words every copy command may carry (R211). -/
def CopyCtl.wf (c : CopyCtl) : Bool :=
  (c.defer.isNone || c.dsp == .global) && (!c.keep || c.ssp == .bay)

/-- CPYS and CPYB reserve BIN and BOUT (R211). -/
def CopyCtl.noBarrier (c : CopyCtl) : Bool := !c.bin && !c.bout

/-- Bit 0 of the live X mask is reserved (R118). -/
def Live.wf (l : Live) : Bool := !l.x.getLsbD 0

/-- An immediate rotation or broadcast amount along the column axis is at most 15 (R156). -/
def VAmt.columnWf : VAmt → Bool
  | .imm n => decide (n.toNat < 16)
  | .reg _ => true

/-- A branch offset is a multiple of 4 (R104). -/
def branchWf (off : BitVec 32) : Bool := off.toNat % 4 == 0

/-- The encodings of an instruction word that R83 does not reject: the limits beyond the types. -/
def Instr.wf : Instr → Bool
  | .br _ _ _ off | .call _ off | .brmz off | .brmf off => branchWf off
  | .lrun lo hi n => decide (lo.val ≤ hi.val) && decide (1 ≤ n.toNat) && decide (n.toNat ≤ 64)
  | .waitb _ _ _ live | .tcont _ _ _ live => live.wf
  | .tdep _ amount => amount != 0
  | .vrotc _ _ n | .vbcc _ _ n => n.columnWf
  | .mskip _ sa sb sq => sa.isSome || sb.isSome || sq
  | .mdrain sa sb sq => sa || sb || sq
  | .pldb _ _ row nr | .pstb _ _ row nr => decide (row.toNat + nr.toNat + 1 ≤ 16)
  | .cpy _ _ _ _ ctl => ctl.wf
  | .cpyi _ _ _ ctl bytes => ctl.wf && bytes != 0
  | .cpys _ _ _ _ ctl => ctl.wf && ctl.noBarrier
  | .cpyb _ _ _ _ ctl => ctl.wf && ctl.noBarrier && ctl.dsp == .bay
  | .pub mask => mask != 0
  | .collAllreduce _ _ _ _ n | .collRedscat _ _ _ _ n | .collAllgath _ _ _ _ n
  | .collBcast _ _ _ _ _ n => decide (1 ≤ n.toNat) && decide (n.toNat ≤ 2 ^ 28)
  | .sncfgCreate _ _ _ _ limit => decide (1 ≤ limit.toNat) && decide (limit.toNat ≤ 262143)
  | _ => true

end Sys2Proof
end

