-- ==== Sys2Proof/Decode.lean ====
section
/-! DEFINITION. The instruction words (R61 to R84): decoding any bytes, rejecting by name, and the
encoder written from the same tables. Fields are natural numbers cut out of 32-bit words. -/

namespace Sys2Proof

/-- Why bytes are no instruction (R83, R84). -/
inductive DecodeError
  | tooShort     -- the words run past the bytes given
  | headerKind   -- KIND 11b where word 0 of an instruction is expected
  | unassigned   -- OPC is a dash of R79
  | length       -- KIND does not match the opcode's length (R81)
  | slotClass    -- the opcode is not legal in the slot (R80)
  | reserved     -- a reserved field is not 0, or an operand code is out of range (R78)
  deriving DecidableEq, Repr

/-- The eight slots in their order (R8). -/
inductive Slot | K | S | V | W | M | P | G | E
  deriving DecidableEq, Repr

/-- The slot's place in the order K, S, V, W, M, P, G, E. -/
def Slot.index : Slot → Fin 8
  | .K => 0 | .S => 1 | .V => 2 | .W => 3 | .M => 4 | .P => 5 | .G => 6 | .E => 7

/-- The slots in order. -/
def Slot.all : List Slot := [.K, .S, .V, .W, .M, .P, .G, .E]

/-- An instruction with its F and L flags (R70, R76). -/
structure Flagged where
  ins : Instr
  f : Bool
  l : Bool
  deriving DecidableEq, Repr

/-! ### Fields -/

/-- The field [hi:lo] of a word. -/
def fld (w hi lo : Nat) : Nat := natBits w hi lo

/-- A register named by a 5-bit field. -/
def rX (n : Nat) : XReg := Fin.ofNat 32 n

/-- A vector register named by a 5-bit field. -/
def rV (n : Nat) : VReg := Fin.ofNat 32 n

/-- A bit as a Bool. -/
def bit1 (n : Nat) : Bool := n % 2 == 1

/-- A Bool as a bit. -/
def bitN (b : Bool) : Nat := if b then 1 else 0

/-- An address register in a 5-bit field: bit 4 is 0 (R78). -/
def aOf (n : Nat) : Option AReg := if n < 16 then some (Fin.ofNat 16 n) else none

/-- A result tile in a 5-bit field: bits [4:3] are 0 (R78). -/
def rtOf (n : Nat) : Option RtReg := if n < 8 then some (Fin.ofNat 8 n) else none

/-- A loop level: codes 0 to 5 (R78). -/
def levelOf (n : Nat) : Option LevelNo := if n < 6 then some (Fin.ofNat 6 n) else none

/-- A status slot code 0 to 15 (R211). -/
def slotOf (n : Nat) : Option SlotNo := if n < 16 then some (Fin.ofNat 16 n) else none

/-- `v` when the reserved fields are 0 and the codes are in range. -/
def when0 (c : Bool) (v : Instr) : Option Instr := if c then some v else none

/-! ### Codes -/

def condOf : Nat → Option Cond
  | 0 => some .al | 1 => some .eq | 2 => some .ne | 3 => some .lt | 4 => some .ge
  | 5 => some .ltu | 6 => some .geu | _ => none

def Cond.code : Cond → Nat
  | .al => 0 | .eq => 1 | .ne => 2 | .lt => 3 | .ge => 4 | .ltu => 5 | .geu => 6

def fpredOf : Nat → Option FPred
  | 0 => some .eq | 1 => some .lt | 2 => some .le | 3 => some .un | 4 => some .ne | _ => none

def FPred.code : FPred → Nat
  | .eq => 0 | .lt => 1 | .le => 2 | .un => 3 | .ne => 4

def ipredOf : Nat → Option IPred
  | 0 => some .eq | 1 => some .ne | 2 => some .lt | 3 => some .le | 4 => some .ltu
  | 5 => some .leu | _ => none

def IPred.code : IPred → Nat
  | .eq => 0 | .ne => 1 | .lt => 2 | .le => 3 | .ltu => 4 | .leu => 5

def fcvtOf : Nat → Option FcvtOp
  | 0 => some .f2l | 1 => some .f2w | 2 => some .l2f | 3 => some .w2f | _ => none

def FcvtOp.code : FcvtOp → Nat
  | .f2l => 0 | .f2w => 1 | .l2f => 2 | .w2f => 3

/-- AMOV's direction and registers (R133). -/
def amovOf (dir d a : Nat) : Option AmovOp :=
  match dir with
  | 0 => (aOf d).map fun d => .toA d (rX a)
  | 1 => (aOf a).map fun a => .fromA (rX d) a
  | 2 => (aOf d).bind fun d => (aOf a).map fun a => .aToA d a
  | _ => none

def redOf : Nat → RedOp
  | 0 => .add | 1 => .max | 2 => .min | _ => .iadd

def RedOp.code : RedOp → Nat
  | .add => 0 | .max => 1 | .min => 2 | .iadd => 3

def widthOf : Nat → Option RecWidth
  | 0 => some .rb8 | 1 => some .rb6 | 2 => some .rb4 | _ => none

def RecWidth.code : RecWidth → Nat
  | .rb8 => 0 | .rb6 => 1 | .rb4 => 2

def vcvtOf : Nat → Option VcvtOp
  | 0 => some .f2h | 1 => some .f2b | 2 => some .h2f | 3 => some .b2f | 4 => some .f2w
  | 5 => some .f2s | 6 => some .f2c | 7 => some .w2f | 8 => some .s2f | 9 => some .c2f
  | _ => none

def VcvtOp.code : VcvtOp → Nat
  | .f2h => 0 | .f2b => 1 | .h2f => 2 | .b2f => 3 | .f2w => 4
  | .f2s => 5 | .f2c => 6 | .w2f => 7 | .s2f => 8 | .c2f => 9

def mtypeOf : Nat → Option MType
  | 0 => some .rb8 | 1 => some .rb6 | 2 => some .rb4 | 3 => some .fp16 | 4 => some .bf16
  | _ => none

def MType.code : MType → Nat
  | .rb8 => 0 | .rb6 => 1 | .rb4 => 2 | .fp16 => 3 | .bf16 => 4

def sizeOf' : Nat → Size
  | 0 => .d | 1 => .w | 2 => .h | _ => .b

def Size.code : Size → Nat
  | .d => 0 | .w => 1 | .h => 2 | .b => 3

/-- The bytes of an access size. -/
def Size.bytes : Size → Nat
  | .d => 8 | .w => 4 | .h => 2 | .b => 1

def patomOf : Nat → PatomOp
  | 0 => .add | 1 => .and | 2 => .or | 3 => .xor | 4 => .smin | 5 => .smax | 6 => .umax
  | _ => .swap

def PatomOp.code : PatomOp → Nat
  | .add => 0 | .and => 1 | .or => 2 | .xor => 3 | .smin => 4 | .smax => 5 | .umax => 6
  | .swap => 7

def gatomOf : Nat → Option GatomOp
  | 0 => some .add | 1 => some .and | 2 => some .or | 3 => some .xor | 4 => some .smin
  | 5 => some .smax | 6 => some .umin | 7 => some .umax | 8 => some .swap | _ => none

def GatomOp.code : GatomOp → Nat
  | .add => 0 | .and => 1 | .or => 2 | .xor => 3 | .smin => 4 | .smax => 5 | .umin => 6
  | .umax => 7 | .swap => 8

def relOf : Nat → Option RelOp
  | 0 => some .none | 1 => some .st | 2 => some .add | _ => none

def RelOp.code : RelOp → Nat
  | .none => 0 | .st => 1 | .add => 2

def scopeOf : Nat → Option Scope
  | 0 => some .part | 1 => some .ctx | 2 => some .tile | 3 => some .clu | 4 => some .dev
  | 5 => some .grp | _ => none

def Scope.code : Scope → Nat
  | .part => 0 | .ctx => 1 | .tile => 2 | .clu => 3 | .dev => 4 | .grp => 5

def prefOf : Nat → Option PrefLevel
  | 0 => some .l1 | 1 => some .clu | 2 => some .sys | _ => none

def PrefLevel.code : PrefLevel → Nat
  | .l1 => 0 | .clu => 1 | .sys => 2

def srcOf : Nat → Option SrcSpace
  | 0 => some .global | 1 => some .bay | 2 => some .mram | _ => none

def SrcSpace.code : SrcSpace → Nat
  | .global => 0 | .bay => 1 | .mram => 2

def dstOf : Nat → Option DstSpace
  | 0 => some .global | 1 => some .bay | 3 => some .bank | _ => none

def DstSpace.code : DstSpace → Nat
  | .global => 0 | .bay => 1 | .bank => 3

/-- A status slot field: SLOTEN and SLOT, SLOT reserved when SLOTEN = 0 (R211, R268). -/
def slotField (en slot : Nat) : Option (Option SlotNo) :=
  if en == 1 then some (some (Fin.ofNat 16 slot)) else if slot == 0 then some none else none

def slotCode : Option SlotNo → Nat × Nat
  | some n => (1, n.val)
  | none => (0, 0)

/-- The copy control word (R211). -/
def copyCtlOf (w : Nat) : Option CopyCtl :=
  (slotField (fld w 18 18) (fld w 17 14)).bind fun slot =>
  (slotField (fld w 9 9) (fld w 13 10)).bind fun defer =>
  (dstOf (fld w 5 3)).bind fun dsp =>
  (srcOf (fld w 2 0)).bind fun ssp =>
    let c : CopyCtl := ⟨slot, defer, bit1 (fld w 8 8), bit1 (fld w 7 7), bit1 (fld w 6 6), dsp, ssp⟩
    if fld w 31 19 == 0 && c.wf then some c else none

def CopyCtl.code (c : CopyCtl) : Nat :=
  (slotCode c.slot).1 * 2 ^ 18 + (slotCode c.slot).2 * 2 ^ 14 + (slotCode c.defer).2 * 2 ^ 10
    + (slotCode c.defer).1 * 2 ^ 9 + bitN c.bout * 2 ^ 8 + bitN c.bin * 2 ^ 7
    + bitN c.keep * 2 ^ 6 + c.dsp.code * 2 ^ 3 + c.ssp.code

/-- The copy control word of SNGET: only SLOTEN, SLOT, DEFER, PGRP and a global or bay DSP (R244). -/
def sngetCtlOf (w : Nat) : Option (Option SlotNo × Option (Fin 16) × Bool) :=
  (copyCtlOf w).bind fun c =>
    if !c.bout && !c.bin && !c.keep && c.ssp == .global && c.dsp != .bank
    then some (c.slot, c.defer, c.dsp == .bay) else none

/-- The copy control word of MWR: only SSP, global or bay, SLOT and SLOTEN (R211, R223). -/
def mwrCtlOf (w : Nat) : Option (Option SlotNo × Bool) :=
  (copyCtlOf w).bind fun c =>
    if !c.bout && !c.bin && !c.keep && c.defer.isNone && c.dsp == .global && c.ssp != .mram
    then some (c.slot, c.ssp == .bay) else none

/-- The feed control word (R222). -/
def feedOf (w : Nat) : Option (Feed × SrcSpace) :=
  (srcOf (fld w 2 0)).bind fun ssp =>
  (mtypeOf (fld w 7 5)).bind fun ty =>
    if fld w 31 8 != 0 then none else
    match fld w 4 3 with
    | 0 => some (.af ty, ssp)
    | 1 => some (.bf ty, ssp)
    | 2 => if fld w 7 5 == 0 then some (.mq, ssp) else none
    | _ => none

def Feed.code : Feed → Nat
  | .af ty => ty.code * 32
  | .bf ty => ty.code * 32 + 8
  | .mq => 16

/-- The COLL control word: OP and the rest (R268). -/
def collCtlOf (w : Nat) : Option (CollKind × CollCtl) :=
  (slotField (fld w 19 19) (fld w 18 15)).bind fun slot =>
    let c : CollCtl := ⟨Fin.ofNat 16 (fld w 23 20), slot, if fld w 14 14 == 1 then .bf16 else .f32,
      bit1 (fld w 8 8), bit1 (fld w 7 7), fld w 5 3 == 1, fld w 2 0 == 1⟩
    let op : CollKind := match fld w 13 12 with
      | 0 => .allreduce | 1 => .redscat | 2 => .allgath | _ => .bcast
    if fld w 31 24 == 0 && fld w 11 9 == 0 && fld w 6 6 == 0 && decide (fld w 5 3 < 2)
      && decide (fld w 2 0 < 2) then some (op, c) else none

def CollKind.code : CollKind → Nat
  | .allreduce => 0 | .redscat => 1 | .allgath => 2 | .bcast => 3

def CollCtl.code (op : CollKind) (c : CollCtl) : Nat :=
  c.gslot.val * 2 ^ 20 + (slotCode c.slot).1 * 2 ^ 19 + (slotCode c.slot).2 * 2 ^ 15
    + (if c.dt == .bf16 then 1 else 0) * 2 ^ 14 + op.code * 2 ^ 12 + bitN c.bout * 2 ^ 8
    + bitN c.bin * 2 ^ 7 + bitN c.dbay * 2 ^ 3 + bitN c.sbay

def selOf : Nat → Option SnSel
  | 0 => some (.word 0) | 1 => some (.word 1) | 2 => some (.word 2) | 3 => some (.word 3)
  | 4 => some (.word 4) | 5 => some (.word 5) | 16 => some .hits | 17 => some .misses
  | 18 => some .collisions | 19 => some .evictions | 20 => some .live | 21 => some .budget
  | _ => none

def SnSel.code : SnSel → Nat
  | .word n => n.val | .hits => 16 | .misses => 17 | .collisions => 18 | .evictions => 19
  | .live => 20 | .budget => 21

/-- The bounds of WAITC: laid out as CLSCNT, the other bits reserved (R115). -/
def boundsOf (w : Nat) : Option Bounds :=
  if fld w 7 6 == 0 && fld w 15 14 == 0 && fld w 23 21 == 0 && fld w 31 28 == 0
  then some ⟨BitVec.ofNat 6 (fld w 5 0), BitVec.ofNat 6 (fld w 13 8), BitVec.ofNat 5 (fld w 20 16),
    BitVec.ofNat 4 (fld w 27 24)⟩ else none

def Bounds.code (b : Bounds) : Nat :=
  b.tok.toNat * 2 ^ 24 + b.cp.toNat * 2 ^ 16 + b.st.toNat * 2 ^ 8 + b.ld.toNat

/-- The live masks of IMM and LIT (R118). -/
def liveOf (imm lit : Nat) : Live :=
  ⟨BitVec.ofNat 32 lit, BitVec.ofNat 16 (fld imm 15 0), BitVec.ofNat 16 (fld imm 31 16)⟩

def Live.immCode (l : Live) : Nat := l.v.toNat * 2 ^ 16 + l.a.toNat

/-- The amount word of a rotation or broadcast (R156). -/
def amtOf (w : Nat) : Option VAmt :=
  if fld w 30 21 != 0 || fld w 15 6 != 0 then none else
  if fld w 31 31 == 1 then (if fld w 5 0 == 0 then some (.reg (rX (fld w 20 16))) else none)
  else if fld w 20 16 == 0 then some (.imm (BitVec.ofNat 6 (fld w 5 0))) else none

def VAmt.code : VAmt → Nat
  | .imm n => n.toNat
  | .reg x => 2 ^ 31 + x.val * 2 ^ 16

/-- The entry word of BAYCFG under REG (R199). -/
def bayEntryOf (reg w : Nat) : Option BayEntry :=
  if reg == 1 then (if fld w 31 5 == 0 then some (.reg (rX (fld w 4 0))) else none)
  else if fld w 24 24 == 0 then
    some (.imm (BitVec.ofNat 4 (fld w 31 28)) (bit1 (fld w 27 27)) (bit1 (fld w 26 26))
      (bit1 (fld w 25 25)) (BitVec.ofNat 12 (fld w 23 12)) (BitVec.ofNat 12 (fld w 11 0)))
  else none

def BayEntry.code : BayEntry → Nat × Nat
  | .reg x => (1, x.val)
  | .imm own keep sync shadow size base =>
    (0, own.toNat * 2 ^ 28 + bitN keep * 2 ^ 27 + bitN sync * 2 ^ 26 + bitN shadow * 2 ^ 25
      + size.toNat * 2 ^ 12 + base.toNat)

/-! ### The operand tables, family by family -/

/-- The K class, 0x00 to 0x17 (R100). -/
def decodeK (opc w imm lit : Nat) : Option Instr :=
  let q0 := fld w 31 27
  let q1 := fld w 26 22
  let q2 := fld w 21 17
  let q3 := fld w 16 12
  let z := fld w 31 12 == 0
  let off := BitVec.ofNat 32 imm
  match opc with
  | 0x00 => when0 z .nop
  | 0x01 => (condOf q3).bind fun c => when0 (q0 == 0 && imm % 4 == 0) (.br c (rX q1) (rX q2) off)
  | 0x02 => when0 (q0 == 0 && q2 == 0 && q3 == 0) (.bri (rX q1))
  | 0x03 => when0 (q1 == 0 && q2 == 0 && q3 == 0 && imm % 4 == 0) (.call (rX q0) off)
  | 0x04 => when0 (q2 == 0 && q3 == 0) (.calli (rX q0) (rX q1))
  | 0x05 => when0 (q0 == 0 && q2 == 0 && q3 == 0) (.ret (rX q1))
  | 0x06 => when0 (z && imm % 4 == 0) (.brmz off)
  | 0x07 => when0 (z && imm % 4 == 0) (.brmf off)
  | 0x08 => (levelOf q0).bind fun l =>
      when0 (q2 == 0 && q3 == 0 && fld imm 31 24 == 0) (.lset l (rX q1) (BitVec.ofNat 24 imm))
  | 0x09 => (levelOf q0).bind fun l => (aOf q1).bind fun i =>
      when0 (q2 == 0 && q3 == 0) (.lstr l i off)
  | 0x0A => (levelOf q0).bind fun lo => (levelOf q1).bind fun hi =>
      when0 (q2 == 0 && q3 == 0 && fld imm 31 7 == 0 && decide (lo.val ≤ hi.val)
        && decide (1 ≤ fld imm 6 0) && decide (fld imm 6 0 ≤ 64)) (.lrun lo hi (BitVec.ofNat 7 imm))
  | 0x0B => (levelOf q0).bind fun l => when0 (q2 == 0 && q3 == 0) (.lbrk l (rX q1))
  | 0x0C => (boundsOf imm).bind fun b => when0 z (.waitc b)
  | 0x0D => when0 (q3 == 0 && lit % 2 == 0) (.waitb (rX q0) (rX q1) (rX q2) (liveOf imm lit))
  | 0x0E => when0 z .yield
  | 0x0F => when0 z .texit
  | 0x10 => when0 (q3 == 0 && fld imm 31 16 == 0) (.tspawn (rX q0) (rX q1) (rX q2) (BitVec.ofNat 16 imm))
  | 0x11 => when0 (q3 == 0 && lit % 2 == 0) (.tcont (rX q0) (rX q1) (rX q2) (liveOf imm lit))
  | 0x12 => when0 (q0 == 0 && q3 == 0) (.tsig (rX q1) (rX q2) off)
  | 0x13 => when0 (q0 == 0 && q2 == 0 && q3 == 0 && fld imm 31 16 == 0 && fld imm 15 0 != 0)
      (.tdep (rX q1) (BitVec.ofNat 16 imm))
  | 0x14 => when0 z .ifence
  | 0x15 => when0 (q0 == 0 && q2 == 0 && q3 == 0) (.banksw (rX q1))
  | 0x16 => when0 z .halt
  | 0x17 => when0 (fld imm 31 1 == 0) (.tarm (rX q0) (rX q1) (rX q2) (rX q3) (bit1 (fld imm 0 0)))
  | _ => none

/-- The S class, 0x20 to 0x3D (R130). -/
def decodeS (opc w imm lit : Nat) : Option Instr :=
  let q0 := fld w 31 27
  let q1 := fld w 26 22
  let q2 := fld w 21 17
  let q3 := fld w 16 12
  let d := rX q0
  let a := rX q1
  let b := rX q2
  let c := rX q3
  match opc with
  | 0x20 => when0 (q3 == 0) (.add d a b)
  | 0x21 => when0 (q3 == 0) (.sub d a b)
  | 0x22 => when0 (q2 == 0 && q3 == 0) (.addi d a (BitVec.ofNat 32 imm))
  | 0x23 => when0 (q3 == 0) (.mul d a b)
  | 0x24 => when0 (q3 == 0) (.mulh d a b)
  | 0x25 => (fpredOf q3).map fun p => .fcmp p d a b
  | 0x26 => when0 (q3 == 0) (.div d a b)
  | 0x27 => when0 (q3 == 0) (.divu d a b)
  | 0x28 => when0 (q3 == 0) (.rem d a b)
  | 0x29 => (fcvtOf q3).bind fun op => when0 (q2 == 0) (.fcvt op d a)
  | 0x2A => when0 (q3 == 0) (.and d a b)
  | 0x2B => when0 (q3 == 0) (.or d a b)
  | 0x2C => when0 (q3 == 0) (.xor d a b)
  | 0x2D => when0 (q3 == 0) (.shl d a b)
  | 0x2E => when0 (q3 == 0) (.shr d a b)
  | 0x2F => when0 (q3 == 0) (.sar d a b)
  | 0x30 => when0 (q3 == 0) (.min d a b)
  | 0x31 => when0 (q3 == 0) (.max d a b)
  | 0x32 => when0 (q3 == 0) (.slt d a b)
  | 0x33 => when0 (q3 == 0) (.sltu d a b)
  | 0x34 => some (.sel d a b c)
  | 0x35 => some (.bfx d a b c)
  | 0x36 => some (.bfi d a b c)
  | 0x37 => when0 (q2 == 0 && q3 == 0) (.clz d a)
  | 0x38 => when0 (q2 == 0 && q3 == 0) (.popc d a)
  | 0x39 => when0 (q1 == 0 && q2 == 0 && q3 == 0) (.li d (BitVec.ofNat 64 (lit * 2 ^ 32 + imm)))
  | 0x3A => (amovOf q2 q0 q1).bind fun op => when0 (q3 == 0) (.amov op)
  | 0x3B => when0 (q3 == 0) (.fadd d a b)
  | 0x3C => when0 (q3 == 0) (.fmul d a b)
  | 0x3D => some (.ffma d a b c)
  | _ => none

/-- VB and UB of a two-source instruction under S, MOD[13:12] reserved (R140). -/
def vbOf (w : Nat) : Option VOrX :=
  if fld w 13 12 != 0 then none else
  if fld w 14 14 == 1 then
    (if fld w 15 15 == 0 then some (.x (rX (fld w 21 17))) else none)
  else some (.v ⟨rV (fld w 21 17), bit1 (fld w 15 15)⟩)

/-- VA with its last-use bit (R140). -/
def vaOf (w : Nat) : VUse := ⟨rV (fld w 26 22), bit1 (fld w 16 16)⟩

/-- The vector and mask-stack opcodes, 0x40 to 0x6D (R140). -/
def decodeV (opc w imm : Nat) : Option Instr :=
  let d := rV (fld w 31 27)
  let a := vaOf w
  let two (k : VReg → VUse → VOrX → Instr) : Option Instr := (vbOf w).map fun b => k d a b
  let one (k : VReg → VUse → Instr) : Option Instr :=
    when0 (fld w 21 17 == 0 && fld w 15 12 == 0) (k d a)
  match opc with
  | 0x40 => two .vaddF
  | 0x41 => two .vaddI
  | 0x42 => two .vsubF
  | 0x43 => two .vsubI
  | 0x44 => two .vmulF
  | 0x45 => two .vmulI
  | 0x46 => two .vfmaF
  | 0x47 => two .vminF
  | 0x48 => two .vmaxF
  | 0x49 => two .vminI
  | 0x4A => two .vmaxI
  | 0x4B => one .vabsF
  | 0x4C => one .vnegF
  | 0x4D => two .vand
  | 0x4E => two .vor
  | 0x4F => two .vxor
  | 0x50 => two .vshl
  | 0x51 => two .vshr
  | 0x52 => two .vsar
  | 0x53 => (fpredOf (fld w 31 27)).bind fun p => (vbOf w).map fun b => .vcmpF p a b
  | 0x54 => (ipredOf (fld w 31 27)).bind fun p => (vbOf w).map fun b => .vcmpI p a b
  | 0x55 => two .vsel
  | 0x56 =>
    if fld w 14 14 == 1 then
      when0 (fld w 26 22 == 0 && fld w 16 15 == 0 && fld w 13 12 == 0)
        (.vmov d (.x (rX (fld w 21 17))))
    else when0 (fld w 21 17 == 0 && fld w 15 12 == 0) (.vmov d (.v a))
  | 0x57 => (rtOf (fld w 26 22)).bind fun r => when0 (fld w 21 12 == 0) (.vacc d r)
  | 0x58 => (rtOf (fld w 26 22)).bind fun r => when0 (fld w 21 12 == 0) (.vrdt d r)
  | 0x59 => (amtOf imm).bind fun n => one fun d a => .vrotr d a n
  | 0x5A => (amtOf imm).bind fun n => if n.columnWf then one fun d a => .vrotc d a n else none
  | 0x5B => (amtOf imm).bind fun n => one fun d a => .vbcr d a n
  | 0x5C => (amtOf imm).bind fun n => if n.columnWf then one fun d a => .vbcc d a n else none
  | 0x5D => when0 (fld w 21 17 == 0 && fld w 15 14 == 0) (.vredr (redOf (fld w 13 12)) d a)
  | 0x5E => when0 (fld w 21 17 == 0 && fld w 15 14 == 0) (.vredc (redOf (fld w 13 12)) d a)
  | 0x5F => one .vtrn
  | 0x60 => one .vexp2
  | 0x61 => one .vlog2
  | 0x62 => one .vexp
  | 0x63 => one .vlog
  | 0x64 => one .vrcp
  | 0x65 => one .vrsq
  | 0x66 => one .vtanh
  | 0x67 => one .vsigm
  | 0x68 => (vcvtOf (fld w 21 17)).bind fun op => when0 (fld w 15 12 == 0) (.vcvt op d a)
  | 0x69 => (widthOf (fld w 13 12)).bind fun k =>
      when0 (fld w 21 17 == 0 && fld w 15 14 == 0) (.vnarw k d a)
  | 0x6A => (widthOf (fld w 13 12)).bind fun k =>
      when0 (fld w 21 17 == 0 && fld w 15 14 == 0) (.vwidn k d a)
  | 0x6B => when0 (fld w 31 12 == 0) .mpush
  | 0x6C => when0 (fld w 31 12 == 0) .minv
  | 0x6D => when0 (fld w 31 12 == 0) .mpop
  | _ => none

/-- The matrix opcodes, 0x70 to 0x77 (R164). -/
def decodeM (opc w : Nat) : Option Instr :=
  let r : RtReg := Fin.ofNat 8 (fld w 31 29)
  let c5 := fld w 28 24
  let mm (k : MType → MType → Bool → Instr) : Option Instr :=
    (mtypeOf (fld w 23 21)).bind fun fa => (mtypeOf (fld w 20 18)).bind fun fb =>
      when0 (fld w 16 12 == 0) (k fa fb (bit1 (fld w 17 17)))
  match opc with
  | 0x70 => mm fun fa fb acc => .mma r (BitVec.ofNat 5 c5) fa fb acc
  | 0x71 => mm fun fa fb acc => .mmaf r (BitVec.ofNat 5 c5) fa fb acc
  | 0x72 => if c5 < 16 then mm fun fa fb acc => .mmas r (BitVec.ofNat 4 c5) fa fb acc else none
  | 0x73 =>
    if fld w 23 23 == 1 then
      when0 (c5 == 0 && fld w 13 12 == 0) (.mzero r (some (BitVec.ofNat 9 (fld w 22 14))))
    else when0 (c5 == 0 && fld w 22 12 == 0) (.mzero r none)
  | 0x74 => when0 (fld w 22 12 == 0) (.mput r ⟨rV c5, bit1 (fld w 23 23)⟩)
  | 0x75 =>
    let sa := bit1 (fld w 17 17)
    let sb := bit1 (fld w 16 16)
    let sq := bit1 (fld w 15 15)
    (mtypeOf (fld w 23 21)).bind fun fa => (mtypeOf (fld w 20 18)).bind fun fb =>
      when0 (fld w 31 29 == 0 && fld w 14 12 == 0 && (sa || sb || sq)
          && (sa || fld w 23 21 == 0) && (sb || fld w 20 18 == 0))
        (.mskip (BitVec.ofNat 5 c5) (if sa then some fa else none) (if sb then some fb else none) sq)
  | 0x76 =>
    when0 (fld w 31 18 == 0 && fld w 14 12 == 0 && fld w 17 15 != 0)
      (.mdrain (bit1 (fld w 17 17)) (bit1 (fld w 16 16)) (bit1 (fld w 15 15)))
  | 0x77 => when0 (fld w 23 12 == 0) (.mstat (rX c5) r)
  | _ => none

/-- The location fields of form N with DISP (R186). -/
def plocOf (w imm : Nat) : PLoc :=
  ⟨Fin.ofNat 64 (fld w 26 21), Fin.ofNat 16 (fld w 20 17), bit1 (fld w 16 16),
    BitVec.ofNat 24 (fld imm 23 0)⟩

/-- The P class, 0x80 to 0x91 (R186). -/
def decodeP (opc w imm : Nat) : Option Instr :=
  let xv := fld w 31 27
  let l := plocOf w imm
  let m := fld w 15 12
  let hi := fld imm 31 24
  let v : VUse := ⟨rV xv, bit1 (fld w 15 15)⟩
  let row := BitVec.ofNat 4 (fld imm 31 28)
  let nr := BitVec.ofNat 4 (fld imm 27 24)
  let fits := decide (fld imm 31 28 + fld imm 27 24 + 1 ≤ 16)
  let refOk := fld w 26 16 == 0
  match opc with
  | 0x80 => when0 (m == 0 && hi == 0) (.pld (rV xv) l)
  | 0x81 => when0 (fld w 14 12 == 0 && hi == 0) (.pst v l)
  | 0x82 => when0 (m == 0 && fits) (.pldb (rV xv) l row nr)
  | 0x83 => when0 (fld w 14 12 == 0 && fits) (.pstb v l row nr)
  | 0x84 => when0 (m == 0) (.plds (rV xv) l (BitVec.ofNat 8 hi))
  | 0x85 => when0 (fld w 14 12 == 0) (.psts v l (BitVec.ofNat 8 hi))
  | 0x86 => when0 (fld w 14 12 == 0 && fld imm 31 29 == 0)
      (.pldx (rV xv) l ⟨rV (fld imm 28 24), bit1 (fld w 15 15)⟩)
  | 0x87 => when0 (fld w 13 12 == 0 && fld imm 31 29 == 0)
      (.pstx v l ⟨rV (fld imm 28 24), bit1 (fld w 14 14)⟩)
  | 0x88 => when0 (fld w 14 12 == 0 && hi == 0) (.pstm v l)
  | 0x89 =>
    let op := patomOf (fld w 14 12)
    let x := rX (fld imm 28 24)
    if fld w 15 15 == 1 then
      when0 (refOk && fld imm 31 29 == 0 && fld imm 23 21 == 0 && fld imm 15 0 == 0)
        (.patomR op (rX xv) (rX (fld imm 20 16)) x)
    else when0 (fld imm 31 29 == 0) (.patom op (rX xv) l x)
  | 0x8A => when0 (fld w 14 12 == 0 && hi == 0) (.binit (rX xv) (bit1 (fld w 15 15)) l)
  | 0x8B =>
    if fld w 15 15 == 1 then
      when0 (refOk && fld w 14 12 == 0 && fld imm 31 21 == 0 && fld imm 15 0 == 0)
        (.barvR (rX xv) (rX (fld imm 20 16)))
    else when0 (m == 0 && hi == 0) (.barv (rX xv) l)
  | 0x8C =>
    if fld w 15 15 == 1 then
      when0 (refOk && fld w 14 12 == 0 && fld imm 31 21 == 0 && fld imm 15 0 == 0)
        (.bwaitR (rX xv) (rX (fld imm 20 16)))
    else when0 (m == 0 && hi == 0) (.bwait (rX xv) l)
  | 0x8D => when0 (fld w 15 14 == 0 && hi == 0) (.pstsc (sizeOf' (fld w 13 12)) (rX xv) l)
  | 0x8E => (bayEntryOf (fld w 15 15) imm).bind fun e =>
      when0 (fld w 20 16 == 0 && fld w 14 12 == 0) (.baycfg (rX xv) l.bay e)
  | 0x8F => when0 (fld w 20 12 == 0) (.bayst (rX xv) l.bay)
  | 0x90 => when0 (xv == 0 && fld w 20 12 == 0) (.bayrel l.bay)
  | 0x91 => when0 (fld w 15 15 == 0 && hi == 0)
      (.pldsc (bit1 (fld w 14 14)) (sizeOf' (fld w 13 12)) (rX xv) l)
  | _ => none

/-- The G class, 0x98 to 0xA9 (R202). -/
def decodeG (opc w imm : Nat) : Option Instr :=
  let q0 := fld w 31 27
  let q1 := fld w 26 22
  let q2 := fld w 21 17
  let q3 := fld w 16 12
  let x0 := rX q0
  let sz := sizeOf' (fld w 14 13)
  let data (k : GAddr → Option Instr) : Option Instr :=
    (aOf q1).bind fun ai => k ⟨ai, bit1 (fld w 16 16), BitVec.ofNat 32 imm⟩
  let e : SAddr := ⟨rX q1, BitVec.ofNat 29 (fld imm 28 0)⟩
  let sync (k : Scope → Instr) (ok : Bool) : Option Instr :=
    (scopeOf (fld imm 31 29)).bind fun sc => when0 ok (k sc)
  match opc with
  | 0x98 => data fun g => when0 (q2 == 0 && fld w 12 12 == 0) (.gld (bit1 (fld w 15 15)) sz x0 g)
  | 0x99 => data fun g => when0 (q2 == 0 && fld w 15 15 == 0 && fld w 12 12 == 0) (.gst sz x0 g)
  | 0x9A => data fun g => when0 (q2 == 0 && fld w 15 12 == 0) (.gldv (rV q0) g)
  | 0x9B => data fun g =>
      when0 (q2 == 0 && fld w 14 12 == 0) (.gstv ⟨rV q0, bit1 (fld w 15 15)⟩ g)
  | 0x9C => (gatomOf q3).bind fun op => sync (fun sc => .gatom op sc x0 (rX q2) e) true
  | 0x9D => sync (fun sc => .gcas sc x0 (rX q2) e) (q3 == 0)
  | 0x9E => sync (fun sc => .acq sc x0 e) (q2 == 0 && q3 == 0)
  | 0x9F => (relOf q3).bind fun op => sync (fun sc => .rel op sc (rX q2) e) (q0 == 0)
  | 0xA0 => sync (fun sc => .acqs sc x0 (rX q2) e) (q3 == 0)
  | 0xA1 => when0 (fld imm 31 29 == 0) (.bind x0 (rX q2) (rX q3) e)
  | 0xA2 => when0 (fld imm 31 29 == 0 && q2 == 0 && q3 == 0) (.unbind x0 e)
  | 0xA3 => (scopeOf (fld w 14 12)).bind fun sc => when0 (fld w 31 15 == 0) (.gfence sc)
  | 0xA4 => data fun g => (prefOf (fld w 14 13)).bind fun l =>
      when0 (q0 == 0 && q2 == 0 && fld w 15 15 == 0 && fld w 12 12 == 0) (.gpref l g)
  | 0xA5 => data fun g => when0 (q0 == 0 && fld w 15 12 == 0) (.ginv (rX q2) g)
  | 0xA6 => data fun g => when0 (q0 == 0 && fld w 15 12 == 0) (.gwb (rX q2) g)
  | 0xA7 => data fun g => when0 (q2 == 0 && fld w 12 12 == 0) (.gldc (bit1 (fld w 15 15)) sz x0 g)
  | 0xA8 => data fun g => when0 (q2 == 0 && fld w 15 15 == 0 && fld w 12 12 == 0) (.gstc sz x0 g)
  | 0xA9 => data fun g => when0 (q2 == 0 && fld w 15 12 == 0) (.gprobe x0 g)
  | _ => none

/-- The engine opcodes, 0xB0 to 0xC7 (R211, R238, R265, R267). -/
def decodeE (opc w imm lit : Nat) : Option Instr :=
  let q0 := fld w 31 27
  let q1 := fld w 26 22
  let q2 := fld w 21 17
  let q3 := fld w 16 12
  let x0 := rX q0
  let x1 := rX q1
  let x2 := rX q2
  let x3 := rX q3
  match opc with
  | 0xB0 => (copyCtlOf imm).map fun c => .cpy x0 x1 x2 x3 c
  | 0xB1 => (copyCtlOf imm).bind fun c =>
      when0 (q3 == 0 && lit != 0) (.cpyi x0 x1 x2 c (BitVec.ofNat 32 lit))
  | 0xB2 => (feedOf imm).bind fun f => when0 (q3 == 0) (.cfeed x0 x1 x2 f.1 f.2)
  | 0xB3 => when0 (fld w 31 12 == 0 && fld imm 31 16 == 0 && fld imm 15 0 != 0)
      (.pub (BitVec.ofNat 16 imm))
  | 0xB4 => (slotOf q1).bind fun n => when0 (q2 == 0 && q3 == 0) (.cstat x0 n)
  | 0xB5 =>
    if q1 == 31 then when0 (q0 == 0 && q2 == 0 && q3 == 0) (.cabrt .all)
    else (slotOf q1).bind fun n => when0 (q0 == 0 && q2 == 0 && q3 == 0) (.cabrt (.slot n))
  | 0xB6 => when0 (fld imm 31 1 == 0) (.snfind x0 x1 x2 x3 (bit1 (fld imm 0 0)))
  | 0xB7 => some (.snput x0 x1 x2 x3 (BitVec.ofNat 32 imm))
  | 0xB8 => (sngetCtlOf imm).map fun c => .snget x0 x1 x2 x3 c.1 c.2.1 c.2.2
  | 0xB9 => when0 (q0 == 0 && q2 == 0 && q3 == 0) (.snrel x1)
  | 0xBA => (selOf q3).bind fun sel => when0 (q2 == 0) (.snstat x0 x1 sel)
  | 0xBB => when0 (q0 == 0 && q2 == 0 && q3 == 0) (.snhold x1)
  | 0xBC => (collCtlOf imm).bind fun oc =>
      let n := BitVec.ofNat 29 (fld lit 28 0)
      let ok := fld lit 31 29 == 0 && decide (1 ≤ fld lit 28 0) && decide (fld lit 28 0 ≤ 2 ^ 28)
      match oc.1 with
      | .allreduce => when0 (ok && q3 == 0) (.collAllreduce x0 x1 x2 oc.2 n)
      | .redscat => when0 (ok && q3 == 0) (.collRedscat x0 x1 x2 oc.2 n)
      | .allgath => when0 (ok && q3 == 0) (.collAllgath x0 x1 x2 oc.2 n)
      | .bcast => when0 ok (.collBcast x0 x1 x2 x3 oc.2 n)
  | 0xBD =>
    let g : Fin 16 := Fin.ofNat 16 (fld imm 3 0)
    match q3 with
    | 0 => when0 (q2 == 0 && fld imm 31 4 == 0) (.cgrpJoin x0 x1 g)
    | 1 => when0 (q1 == 0 && q2 == 0 && fld imm 31 4 == 0) (.cgrpLeave x0 g)
    | _ => none
  | 0xBE => (mwrCtlOf imm).bind fun c => when0 (q0 == 0) (.mwr x1 x2 x3 c.1 c.2)
  | 0xBF => (slotOf q1).bind fun n => when0 (q0 == 0 && q2 == 0 && q3 == 0) (.mcmt n)
  | 0xC0 => (slotOf q1).bind fun n => when0 (q0 == 0 && q2 == 0 && q3 == 0) (.mabt n)
  | 0xC1 => when0 (q2 == 0 && q3 == 0 && fld imm 31 1 == 0) (.mwear x0 x1 (bit1 (fld imm 0 0)))
  | 0xC2 => when0 (q0 == 0 && q2 == 0 && q3 == 0 && fld imm 31 16 == 0)
      (.tilewk x1 (BitVec.ofNat 16 imm))
  | 0xC3 => when0 (q0 == 0 && q2 == 0 && q3 == 0) (.tileoff x1)
  | 0xC4 => when0 (q0 == 0 && q2 == 0 && q3 == 0 && fld imm 31 12 == 0)
      (.evpost x1 (BitVec.ofNat 12 imm))
  | 0xC5 => (copyCtlOf imm).bind fun c => when0 c.noBarrier (.cpys x0 x1 x2 x3 c)
  | 0xC6 =>
    match q3 with
    | 0 => when0 (q2 == 0 && fld imm 31 4 == 0 && decide (fld imm 2 0 < 7) && decide (1 ≤ lit)
        && decide (lit ≤ 262143))
        (.sncfgCreate x0 x1 (Fin.ofNat 7 (fld imm 2 0)) (bit1 (fld imm 3 3)) (BitVec.ofNat 32 lit))
    | 1 => when0 (q2 == 0 && imm == 0 && lit == 0) (.sncfgDestroy x0 x1)
    | 2 => when0 (q2 == 0 && imm == 0 && lit == 0) (.sncfgFlush x0 x1)
    | _ => none
  | 0xC7 => (copyCtlOf imm).bind fun c => when0 (c.noBarrier && c.dsp == .bay) (.cpyb x0 x1 x2 x3 c)
  | _ => none

/-- The system opcodes, 0xC8 to 0xCF (R100). -/
def decodeSys (opc w imm : Nat) : Option Instr :=
  let q0 := fld w 31 27
  let q1 := fld w 26 22
  let low := fld w 21 12 == 0
  let csr := BitVec.ofNat 12 (fld imm 11 0)
  let csrOk := fld imm 31 12 == 0 && low
  match opc with
  | 0xC8 => when0 (csrOk && q1 == 0) (.csrr (rX q0) csr)
  | 0xC9 => when0 csrOk (.csrw (rX q0) (rX q1) csr)
  | 0xCA => when0 csrOk (.csrs (rX q0) (rX q1) csr)
  | 0xCB => when0 csrOk (.csrc (rX q0) (rX q1) csr)
  | 0xCC => some (.trap (BitVec.ofNat 20 (fld w 31 12)))
  | 0xCD => when0 (fld w 31 12 == 0) .eret
  | 0xCE => some (.sysc (BitVec.ofNat 20 (fld w 31 12)))
  | 0xCF => when0 low (.pwrq (rX q0) (rX q1))
  | _ => none

/-! ### Opcode, length and slot (R79 to R81) -/

/-- The words of an assigned opcode (R81), none where R79 has a dash. -/
def opcWords (opc : Nat) : Option Nat :=
  if opc ≤ 0x17 then
    some (if opc = 0x0D ∨ opc = 0x11 then 3
      else if opc = 0x01 ∨ opc = 0x03 ∨ opc = 0x06 ∨ opc = 0x07 ∨ opc = 0x08 ∨ opc = 0x09
        ∨ opc = 0x0A ∨ opc = 0x0C ∨ opc = 0x10 ∨ opc = 0x12 ∨ opc = 0x13 ∨ opc = 0x17 then 2 else 1)
  else if opc < 0x20 then none
  else if opc ≤ 0x3D then some (if opc = 0x39 then 3 else if opc = 0x22 then 2 else 1)
  else if opc < 0x40 then none
  else if opc ≤ 0x6D then some (if 0x59 ≤ opc ∧ opc ≤ 0x5C then 2 else 1)
  else if opc < 0x70 then none
  else if opc ≤ 0x77 then some 1
  else if opc < 0x80 then none
  else if opc ≤ 0x91 then some (if opc = 0x8F ∨ opc = 0x90 then 1 else 2)
  else if opc < 0x98 then none
  else if opc ≤ 0xA9 then some (if opc = 0xA3 then 1 else 2)
  else if opc < 0xB0 then none
  else if opc ≤ 0xC7 then
    some (if opc = 0xB1 ∨ opc = 0xBC ∨ opc = 0xC6 then 3
      else if opc = 0xB4 ∨ opc = 0xB5 ∨ opc = 0xB9 ∨ opc = 0xBA ∨ opc = 0xBB ∨ opc = 0xBF
        ∨ opc = 0xC0 ∨ opc = 0xC3 then 1 else 2)
  else if opc ≤ 0xCB then some 2
  else if opc ≤ 0xCF then some 1
  else none

/-- The slots an assigned opcode is legal in (R80). -/
def opcSlot (opc : Nat) (s : Slot) : Bool :=
  if opc = 0 then true
  else if opc ≤ 0x17 then s == .K
  else if opc ≤ 0x3D then s == .S
  else if opc ≤ 0x57 then s == .V || s == .W
  else if opc ≤ 0x6A then s == .W
  else if opc ≤ 0x6D then s == .V || s == .W
  else if opc ≤ 0x77 then s == .M
  else if opc ≤ 0x91 then s == .P
  else if opc ≤ 0xA9 then s == .G
  else if opc ≤ 0xC7 then s == .E
  else s == .K

/-- The instruction that an assigned opcode and its words of the right length name, none where a
reserved field is not 0 or a code is out of range. -/
def decodeFields (opc w imm lit : Nat) : Option Instr :=
  if opc < 0x20 then decodeK opc w imm lit
  else if opc < 0x40 then decodeS opc w imm lit
  else if opc < 0x70 then decodeV opc w imm
  else if opc < 0x80 then decodeM opc w
  else if opc < 0x98 then decodeP opc w imm
  else if opc < 0xB0 then decodeG opc w imm
  else if opc < 0xC8 then decodeE opc w imm lit
  else decodeSys opc w imm

/-- Word 0's opcode (R76). -/
def opcOf (w : Nat) : Nat := fld w 11 4

/-- Decode one instruction from its words in the order of R84; `slot` is checked when given. -/
def decodeWords (slot : Option Slot) : List HWord → Except DecodeError (Flagged × List HWord)
  | [] => .error .tooShort
  | w0 :: ws =>
    let w := w0.toNat
    if w % 4 = 3 then .error .headerKind else
    match opcWords (opcOf w) with
    | none => .error .unassigned
    | some n =>
      if w % 4 + 1 ≠ n then .error .length
      else if !(slot.all (opcSlot (opcOf w))) then .error .slotClass
      else if ws.length + 1 < n then .error .tooShort
      else
        let imm := if n ≥ 2 then (ws.headD 0).toNat else 0
        let lit := if n = 3 then (ws.tail.headD 0).toNat else 0
        match decodeFields (opcOf w) w imm lit with
        | none => .error .reserved
        | some i => .ok (⟨i, bit1 (fld w 2 2), bit1 (fld w 3 3)⟩, ws.drop (n - 1))

/-- A word from four bytes, the first at the lowest address (R3). -/
def wordOfBytes (a b c d : Byte) : HWord := d ++ c ++ b ++ a

/-- The words of a byte sequence; a rest of fewer than four bytes is no word. -/
def wordsOfBytes : List Byte → List HWord
  | a :: b :: c :: d :: r => wordOfBytes a b c d :: wordsOfBytes r
  | _ => []

/-- The bytes of a word, the lowest first. -/
def bytesOfWord (w : HWord) : List Byte :=
  [w.extractLsb' 0 8, w.extractLsb' 8 8, w.extractLsb' 16 8, w.extractLsb' 24 8]

/-- Decode one instruction from bytes, answering it with the bytes left. -/
def decode (bs : List Byte) : Except DecodeError (Flagged × List Byte) :=
  match decodeWords none (wordsOfBytes bs) with
  | .error e => .error e
  | .ok (i, rest) => .ok (i, bs.drop (bs.length - (4 * rest.length + bs.length % 4)))

/-! ### The encoder -/

/-- Word 0 in form Q (R77). -/
def formQ (opc kind q0 q1 q2 q3 : Nat) : Nat :=
  q0 * 2 ^ 27 + q1 * 2 ^ 22 + q2 * 2 ^ 17 + q3 * 2 ^ 12 + opc * 16 + kind

/-- Word 0 in form V (R77). -/
def formV (opc kind vd va vb ua ub md : Nat) : Nat :=
  vd * 2 ^ 27 + va * 2 ^ 22 + vb * 2 ^ 17 + ua * 2 ^ 16 + ub * 2 ^ 15 + md * 2 ^ 12 + opc * 16 + kind

/-- Word 0 in form M (R77). -/
def formM (opc rt c5 m12 : Nat) : Nat := rt * 2 ^ 29 + c5 * 2 ^ 24 + m12 * 2 ^ 12 + opc * 16

/-- Word 0 in form N (R77). -/
def formN (opc kind xv bay ai ps md : Nat) : Nat :=
  xv * 2 ^ 27 + bay * 2 ^ 21 + ai * 2 ^ 17 + ps * 2 ^ 16 + md * 2 ^ 12 + opc * 16 + kind

/-- Word 0 in form J (R77). -/
def formJ (opc u20 : Nat) : Nat := u20 * 2 ^ 12 + opc * 16

/-- A two-source vector instruction's word (R140). -/
def encTwo (opc vd : Nat) (a : VUse) : VOrX → List Nat
  | .v b => [formV opc 0 vd a.reg.val b.reg.val (bitN a.last) (bitN b.last) 0]
  | .x r => [formV opc 0 vd a.reg.val r.val (bitN a.last) 0 4]

/-- A one-source vector instruction's word (R140). -/
def encOne (opc kind vd : Nat) (a : VUse) (vb md : Nat) : Nat :=
  formV opc kind vd a.reg.val vb (bitN a.last) 0 md

/-- The words of MMA, MMAF and MMAS (R164). -/
def encMma (opc rt n : Nat) (fa fb : MType) (acc : Bool) : List Nat :=
  [formM opc rt n (fa.code * 2 ^ 9 + fb.code * 2 ^ 6 + bitN acc * 2 ^ 5)]

/-- The words of a form N instruction with a location (R186). -/
def encLoc (opc xv md hi : Nat) (l : PLoc) : List Nat :=
  [formN opc 1 xv l.bay.val l.ai.val (bitN l.ps) md, hi * 2 ^ 24 + l.disp.toNat]

/-- The words of a reference-form barrier instruction (R186). -/
def encRef (opc xv md hi xr : Nat) : List Nat :=
  [formN opc 1 xv 0 0 0 (8 + md), hi * 2 ^ 24 + xr * 2 ^ 16]

/-- The words of a data-form G instruction (R202). -/
def encData (opc q0 q2 low : Nat) (g : GAddr) : List Nat :=
  [formQ opc 1 q0 g.ai.val q2 (bitN g.ps * 16 + low), g.disp.toNat]

/-- The words of a synchronising-form G instruction (R202). -/
def encSync (opc q0 q2 q3 : Nat) (sc : Nat) (e : SAddr) : List Nat :=
  [formQ opc 1 q0 e.xa.val q2 q3, sc * 2 ^ 29 + e.disp.toNat]

/-- The words of COLL (R267). -/
def encColl (op : CollKind) (b s d r : Nat) (ctl : CollCtl) (n : BitVec 29) : List Nat :=
  [formQ 0xBC 2 b s d r, ctl.code op, n.toNat]

/-- The words of an instruction as natural numbers, its flags 0; nothing for a step of the machine
that no word encodes. -/
def encodeNat : Instr → List Nat
  | .nop => [formQ 0x00 0 0 0 0 0]
  | .br c a b off => [formQ 0x01 1 0 a.val b.val c.code, off.toNat]
  | .bri a => [formQ 0x02 0 0 a.val 0 0]
  | .call d off => [formQ 0x03 1 d.val 0 0 0, off.toNat]
  | .calli d a => [formQ 0x04 0 d.val a.val 0 0]
  | .ret a => [formQ 0x05 0 0 a.val 0 0]
  | .brmz off => [formQ 0x06 1 0 0 0 0, off.toNat]
  | .brmf off => [formQ 0x07 1 0 0 0 0, off.toNat]
  | .lset l a count => [formQ 0x08 1 l.val a.val 0 0, count.toNat]
  | .lstr l i stride => [formQ 0x09 1 l.val i.val 0 0, stride.toNat]
  | .lrun lo hi n => [formQ 0x0A 1 lo.val hi.val 0 0, n.toNat]
  | .lbrk l a => [formQ 0x0B 0 l.val a.val 0 0]
  | .waitc b => [formQ 0x0C 1 0 0 0 0, b.code]
  | .waitb s a g live => [formQ 0x0D 2 s.val a.val g.val 0, live.immCode, live.x.toNat]
  | .yield => [formQ 0x0E 0 0 0 0 0]
  | .texit => [formQ 0x0F 0 0 0 0 0]
  | .tspawn d a b count => [formQ 0x10 1 d.val a.val b.val 0, count.toNat]
  | .tcont s a b live => [formQ 0x11 2 s.val a.val b.val 0, live.immCode, live.x.toNat]
  | .tsig a b addend => [formQ 0x12 1 0 a.val b.val 0, addend.toNat]
  | .tdep a amount => [formQ 0x13 1 0 a.val 0 0, amount.toNat]
  | .ifence => [formQ 0x14 0 0 0 0 0]
  | .banksw a => [formQ 0x15 0 0 a.val 0 0]
  | .halt => [formQ 0x16 0 0 0 0 0]
  | .tarm d t a b relt => [formQ 0x17 1 d.val t.val a.val b.val, bitN relt]
  | .add d a b => [formQ 0x20 0 d.val a.val b.val 0]
  | .sub d a b => [formQ 0x21 0 d.val a.val b.val 0]
  | .addi d a imm => [formQ 0x22 1 d.val a.val 0 0, imm.toNat]
  | .mul d a b => [formQ 0x23 0 d.val a.val b.val 0]
  | .mulh d a b => [formQ 0x24 0 d.val a.val b.val 0]
  | .fcmp p d a b => [formQ 0x25 0 d.val a.val b.val p.code]
  | .div d a b => [formQ 0x26 0 d.val a.val b.val 0]
  | .divu d a b => [formQ 0x27 0 d.val a.val b.val 0]
  | .rem d a b => [formQ 0x28 0 d.val a.val b.val 0]
  | .fcvt op d a => [formQ 0x29 0 d.val a.val 0 op.code]
  | .and d a b => [formQ 0x2A 0 d.val a.val b.val 0]
  | .or d a b => [formQ 0x2B 0 d.val a.val b.val 0]
  | .xor d a b => [formQ 0x2C 0 d.val a.val b.val 0]
  | .shl d a b => [formQ 0x2D 0 d.val a.val b.val 0]
  | .shr d a b => [formQ 0x2E 0 d.val a.val b.val 0]
  | .sar d a b => [formQ 0x2F 0 d.val a.val b.val 0]
  | .min d a b => [formQ 0x30 0 d.val a.val b.val 0]
  | .max d a b => [formQ 0x31 0 d.val a.val b.val 0]
  | .slt d a b => [formQ 0x32 0 d.val a.val b.val 0]
  | .sltu d a b => [formQ 0x33 0 d.val a.val b.val 0]
  | .sel d a b c => [formQ 0x34 0 d.val a.val b.val c.val]
  | .bfx d a b c => [formQ 0x35 0 d.val a.val b.val c.val]
  | .bfi d a b c => [formQ 0x36 0 d.val a.val b.val c.val]
  | .clz d a => [formQ 0x37 0 d.val a.val 0 0]
  | .popc d a => [formQ 0x38 0 d.val a.val 0 0]
  | .li d imm => [formQ 0x39 2 d.val 0 0 0, imm.toNat % 2 ^ 32, imm.toNat / 2 ^ 32]
  | .amov (.toA d a) => [formQ 0x3A 0 d.val a.val 0 0]
  | .amov (.fromA d a) => [formQ 0x3A 0 d.val a.val 1 0]
  | .amov (.aToA d a) => [formQ 0x3A 0 d.val a.val 2 0]
  | .fadd d a b => [formQ 0x3B 0 d.val a.val b.val 0]
  | .fmul d a b => [formQ 0x3C 0 d.val a.val b.val 0]
  | .ffma d a b c => [formQ 0x3D 0 d.val a.val b.val c.val]
  | .vaddF d a b => encTwo 0x40 d.val a b
  | .vaddI d a b => encTwo 0x41 d.val a b
  | .vsubF d a b => encTwo 0x42 d.val a b
  | .vsubI d a b => encTwo 0x43 d.val a b
  | .vmulF d a b => encTwo 0x44 d.val a b
  | .vmulI d a b => encTwo 0x45 d.val a b
  | .vfmaF d a b => encTwo 0x46 d.val a b
  | .vminF d a b => encTwo 0x47 d.val a b
  | .vmaxF d a b => encTwo 0x48 d.val a b
  | .vminI d a b => encTwo 0x49 d.val a b
  | .vmaxI d a b => encTwo 0x4A d.val a b
  | .vabsF d a => [encOne 0x4B 0 d.val a 0 0]
  | .vnegF d a => [encOne 0x4C 0 d.val a 0 0]
  | .vand d a b => encTwo 0x4D d.val a b
  | .vor d a b => encTwo 0x4E d.val a b
  | .vxor d a b => encTwo 0x4F d.val a b
  | .vshl d a b => encTwo 0x50 d.val a b
  | .vshr d a b => encTwo 0x51 d.val a b
  | .vsar d a b => encTwo 0x52 d.val a b
  | .vcmpF p a b => encTwo 0x53 p.code a b
  | .vcmpI p a b => encTwo 0x54 p.code a b
  | .vsel d a b => encTwo 0x55 d.val a b
  | .vmov d (.v a) => [encOne 0x56 0 d.val a 0 0]
  | .vmov d (.x r) => [formV 0x56 0 d.val 0 r.val 0 0 4]
  | .vacc d r => [formV 0x57 0 d.val r.val 0 0 0 0]
  | .vrdt d r => [formV 0x58 0 d.val r.val 0 0 0 0]
  | .vrotr d a n => [encOne 0x59 1 d.val a 0 0, n.code]
  | .vrotc d a n => [encOne 0x5A 1 d.val a 0 0, n.code]
  | .vbcr d a n => [encOne 0x5B 1 d.val a 0 0, n.code]
  | .vbcc d a n => [encOne 0x5C 1 d.val a 0 0, n.code]
  | .vredr op d a => [encOne 0x5D 0 d.val a 0 op.code]
  | .vredc op d a => [encOne 0x5E 0 d.val a 0 op.code]
  | .vtrn d a => [encOne 0x5F 0 d.val a 0 0]
  | .vexp2 d a => [encOne 0x60 0 d.val a 0 0]
  | .vlog2 d a => [encOne 0x61 0 d.val a 0 0]
  | .vexp d a => [encOne 0x62 0 d.val a 0 0]
  | .vlog d a => [encOne 0x63 0 d.val a 0 0]
  | .vrcp d a => [encOne 0x64 0 d.val a 0 0]
  | .vrsq d a => [encOne 0x65 0 d.val a 0 0]
  | .vtanh d a => [encOne 0x66 0 d.val a 0 0]
  | .vsigm d a => [encOne 0x67 0 d.val a 0 0]
  | .vcvt op d a => [encOne 0x68 0 d.val a op.code 0]
  | .vnarw w d a => [encOne 0x69 0 d.val a 0 w.code]
  | .vwidn w d a => [encOne 0x6A 0 d.val a 0 w.code]
  | .mpush => [formQ 0x6B 0 0 0 0 0]
  | .minv => [formQ 0x6C 0 0 0 0 0]
  | .mpop => [formQ 0x6D 0 0 0 0 0]
  | .mma r n fa fb acc => encMma 0x70 r.val n.toNat fa fb acc
  | .mmaf r n fa fb acc => encMma 0x71 r.val n.toNat fa fb acc
  | .mmas r n fa fb acc => encMma 0x72 r.val n.toNat fa fb acc
  | .mzero r none => [formM 0x73 r.val 0 0]
  | .mzero r (some te) => [formM 0x73 r.val 0 (2 ^ 11 + te.toNat * 4)]
  | .mput r a => [formM 0x74 r.val a.reg.val (bitN a.last * 2 ^ 11)]
  | .mskip n sa sb sq => [formM 0x75 0 n.toNat ((sa.map MType.code).getD 0 * 2 ^ 9
      + (sb.map MType.code).getD 0 * 2 ^ 6 + bitN sa.isSome * 2 ^ 5 + bitN sb.isSome * 2 ^ 4
      + bitN sq * 2 ^ 3)]
  | .mdrain sa sb sq => [formM 0x76 0 0 (bitN sa * 2 ^ 5 + bitN sb * 2 ^ 4 + bitN sq * 2 ^ 3)]
  | .mstat d r => [formM 0x77 r.val d.val 0]
  | .pld d l => encLoc 0x80 d.val 0 0 l
  | .pst v l => encLoc 0x81 v.reg.val (bitN v.last * 8) 0 l
  | .pldb d l row nr => encLoc 0x82 d.val 0 (row.toNat * 16 + nr.toNat) l
  | .pstb v l row nr => encLoc 0x83 v.reg.val (bitN v.last * 8) (row.toNat * 16 + nr.toNat) l
  | .plds d l str => encLoc 0x84 d.val 0 str.toNat l
  | .psts v l str => encLoc 0x85 v.reg.val (bitN v.last * 8) str.toNat l
  | .pldx d l i => encLoc 0x86 d.val (bitN i.last * 8) i.reg.val l
  | .pstx v l i => encLoc 0x87 v.reg.val (bitN v.last * 8 + bitN i.last * 4) i.reg.val l
  | .pstm v l => encLoc 0x88 v.reg.val (bitN v.last * 8) 0 l
  | .patom op d l x => encLoc 0x89 d.val op.code x.val l
  | .patomR op d r x => encRef 0x89 d.val op.code x.val r.val
  | .binit x force l => encLoc 0x8A x.val (bitN force * 8) 0 l
  | .barv g l => encLoc 0x8B g.val 0 0 l
  | .barvR g r => encRef 0x8B g.val 0 0 r.val
  | .bwait d l => encLoc 0x8C d.val 0 0 l
  | .bwaitR d r => encRef 0x8C d.val 0 0 r.val
  | .pstsc sz x l => encLoc 0x8D x.val sz.code 0 l
  | .baycfg d bay e => [formN 0x8E 1 d.val bay.val 0 0 (e.code.1 * 8), e.code.2]
  | .bayst d bay => [formN 0x8F 0 d.val bay.val 0 0 0]
  | .bayrel bay => [formN 0x90 0 0 bay.val 0 0 0]
  | .pldsc sx sz d l => encLoc 0x91 d.val (bitN sx * 4 + sz.code) 0 l
  | .gld sx sz d g => encData 0x98 d.val 0 (bitN sx * 8 + sz.code * 2) g
  | .gst sz x g => encData 0x99 x.val 0 (sz.code * 2) g
  | .gldv d g => encData 0x9A d.val 0 0 g
  | .gstv v g => encData 0x9B v.reg.val 0 (bitN v.last * 8) g
  | .gatom op sc d x e => encSync 0x9C d.val x.val op.code sc.code e
  | .gcas sc d n e => encSync 0x9D d.val n.val 0 sc.code e
  | .acq sc d e => encSync 0x9E d.val 0 0 sc.code e
  | .rel op sc b e => encSync 0x9F 0 b.val op.code sc.code e
  | .acqs sc d b e => encSync 0xA0 d.val b.val 0 sc.code e
  | .bind d b c e => encSync 0xA1 d.val b.val c.val 0 e
  | .unbind d e => encSync 0xA2 d.val 0 0 0 e
  | .gfence sc => [formQ 0xA3 0 0 0 0 sc.code]
  | .gpref lvl g => encData 0xA4 0 0 (lvl.code * 2) g
  | .ginv n g => encData 0xA5 0 n.val 0 g
  | .gwb n g => encData 0xA6 0 n.val 0 g
  | .gldc sx sz d g => encData 0xA7 d.val 0 (bitN sx * 8 + sz.code * 2) g
  | .gstc sz x g => encData 0xA8 x.val 0 (sz.code * 2) g
  | .gprobe d g => encData 0xA9 d.val 0 0 g
  | .cpy b s d r ctl => [formQ 0xB0 1 b.val s.val d.val r.val, ctl.code]
  | .cpyi b s d ctl bytes => [formQ 0xB1 2 b.val s.val d.val 0, ctl.code, bytes.toNat]
  | .cfeed n s p f ssp => [formQ 0xB2 1 n.val s.val p.val 0, f.code + ssp.code]
  | .pub mask => [formQ 0xB3 1 0 0 0 0, mask.toNat]
  | .cstat d n => [formQ 0xB4 0 d.val n.val 0 0]
  | .cabrt .all => [formQ 0xB5 0 0 31 0 0]
  | .cabrt (.slot n) => [formQ 0xB5 0 0 n.val 0 0]
  | .snfind d h r n peek => [formQ 0xB6 1 d.val h.val r.val n.val, bitN peek]
  | .snput d h a n cost => [formQ 0xB7 1 d.val h.val a.val n.val, cost.toNat]
  | .snget p h d s slot defer dbay => [formQ 0xB8 1 p.val h.val d.val s.val,
      CopyCtl.code ⟨slot, defer, false, false, false, if dbay then .bay else .global, .global⟩]
  | .snrel h => [formQ 0xB9 0 0 h.val 0 0]
  | .snstat d h sel => [formQ 0xBA 0 d.val h.val 0 sel.code]
  | .snhold h => [formQ 0xBB 0 0 h.val 0 0]
  | .collAllreduce b s d ctl n => encColl .allreduce b.val s.val d.val 0 ctl n
  | .collRedscat b s d ctl n => encColl .redscat b.val s.val d.val 0 ctl n
  | .collAllgath b s d ctl n => encColl .allgath b.val s.val d.val 0 ctl n
  | .collBcast b s d r ctl n => encColl .bcast b.val s.val d.val r.val ctl n
  | .cgrpJoin d h g => [formQ 0xBD 1 d.val h.val 0 0, g.val]
  | .cgrpLeave d g => [formQ 0xBD 1 d.val 0 0 1, g.val]
  | .mwr s m n slot sbay => [formQ 0xBE 1 0 s.val m.val n.val,
      CopyCtl.code ⟨slot, none, false, false, false, .global, if sbay then .bay else .global⟩]
  | .mcmt n => [formQ 0xBF 0 0 n.val 0 0]
  | .mabt n => [formQ 0xC0 0 0 n.val 0 0]
  | .mwear d m kind => [formQ 0xC1 1 d.val m.val 0 0, bitN kind]
  | .tilewk a hold => [formQ 0xC2 1 0 a.val 0 0, hold.toNat]
  | .tileoff a => [formQ 0xC3 0 0 a.val 0 0]
  | .evpost a event => [formQ 0xC4 1 0 a.val 0 0, event.toNat]
  | .cpys e s d r ctl => [formQ 0xC5 1 e.val s.val d.val r.val, ctl.code]
  | .sncfgCreate d r gl expl limit =>
      [formQ 0xC6 2 d.val r.val 0 0, bitN expl * 8 + gl.val, limit.toNat]
  | .sncfgDestroy d h => [formQ 0xC6 2 d.val h.val 0 1, 0, 0]
  | .sncfgFlush d h => [formQ 0xC6 2 d.val h.val 0 2, 0, 0]
  | .cpyb m s d r ctl => [formQ 0xC7 1 m.val s.val d.val r.val, ctl.code]
  | .csrr d csr => [formQ 0xC8 1 d.val 0 0 0, csr.toNat]
  | .csrw d a csr => [formQ 0xC9 1 d.val a.val 0 0, csr.toNat]
  | .csrs d a csr => [formQ 0xCA 1 d.val a.val 0 0, csr.toNat]
  | .csrc d a csr => [formQ 0xCB 1 d.val a.val 0 0, csr.toNat]
  | .trap code => [formJ 0xCC code.toNat]
  | .eret => [formQ 0xCD 0 0 0 0 0]
  | .sysc code => [formJ 0xCE code.toNat]
  | .pwrq d a => [formQ 0xCF 0 d.val a.val 0 0]
  | .emit => [formJ 0xCE 0]
  | .done => [formJ 0xCE 1]
  | .cancel => [formJ 0xCE 2]
  | .resultClock _ _ | .renameSpill _ | .matrixResult _ _ | .gAccessCompletion _ _ _
  | .gAccessFault _ _ _ _ | .trapEntry _ _ | .deferredFaultArrival _ _ _ _ | .interruptPost _ _ _
  | .copyStart _ _ | .copyPublish _ _ | .lastSourceRead _ _ | .cfeedPanelAvailable _ _
  | .tspawnCheck _ _ _ _ _ _ | .taskTableStep _ _ _ _ _ _ | .signalStep _ _ _ _
  | .waitRegistration _ _ _ _ _ _ _ | .barrierReferenceStep _ _ _ _ _ | .lanternStep _ _ _ _
  | .journalApplyComplete _ _ | .windDownComplete _ _ | .timerDeadline _ _ | .segmentCommit _ _
  | .strikeReport _ | .knownAnswerMismatch _ | .watchdogExpiry _ _ | .preemption _ _
  | .quantumExpiry _ _ | .selection _ _ | .binding _ _ | .bankLoadComplete _ _ | .restore _ _
  | .launchComplete _ _ | .qtail _ _ _ | .qcfg _ _ _ | .queueNop _ _ | .launch _ _ | .fence _ _
  | .waits _ _ | .waitsReread _ _ | .signal _ _ | .prologue _ | .ttRelease _ _ | .ptpMessage _ _
  | .tileIdle _ | .offDelay _ | .tileWake _ | .levelChangeComplete _ | .throttleStep _
  | .levelRecoveryStep | .clusterCounterSample | .powerFail | .forcedLatchSave _ _ | .powerGood _
  | .partitionResume _ | .recoveryImageWrite _ | .freeze | .freezeRelease
  | .safeTierCheckpoint _ _ | .flr _ | .linkDown _ | .laneRetire _ _ | .retrainComplete _
  | .linkCrcFail _ _ | .rosterInstall _ _ _ | .collectiveMatch _ _ _ _ | .collectivePublish _ _ _
  | .pcreate _ | .pdestroy _ | .assign _ | .reclaim _ | .map _ | .unmap _ | .bias _ | .protect _
  | .mptail _ _ | .mappingRemovalComplete _ _ | .flipComplete _ _ | .scrubComplete _ | .pset _
  | .preset _ | .qexport _ | .qimport _ | .dirty _ | .gbind _ _ | .lockInterface _
  | .startInterface _ | .stopInterface _ | .registerWrite _ _ _ _ | .dnAssignment _ | .portReset _
  | .tileReinstate _ | .defaultLevelSet _ _ | .budgetLevelSet _ _ | .offDelaySet _ _
  | .patrolScrub | .tilewkHoldExpiry _ | .securedSessionEnd _ _ _ | .sessionKeyDelivery _ _ _ _
  | .ideStreamFailure _ | .hostMemoryAccess _ | .peerAccessRequest _ | .flrComplete _
  | .journalWriteComplete _ _ | .collectiveMessageArrival _ _ _ _ _ | .writeBackFailure _ _
  | .ptpSourceAssignment _ | .errorThresholdSet _ _ => []

/-- The verb that a prologue's SYSC code names (R349). -/
def prologueVerb (code : BitVec 20) : Option Instr :=
  match code.toNat with
  | 0 => some .emit
  | 1 => some .done
  | 2 => some .cancel
  | _ => none

/-- The constructors that instruction words name in a bundle: neither a prologue's verb, whose words
are those of SYSC, nor a step of the machine itself. -/
def Instr.isWord (i : Instr) : Bool :=
  !(encodeNat i).isEmpty && i != .emit && i != .done && i != .cancel

/-- The words of an instruction with its flags (R76). -/
def encode (i : Flagged) : List HWord :=
  match encodeNat i.ins with
  | [] => []
  | w :: ws => BitVec.ofNat 32 (w + bitN i.l * 8 + bitN i.f * 4) :: ws.map (BitVec.ofNat 32)

/-- The bytes of an instruction with its flags, as an instruction bank holds them (R61). -/
def encodeBytes (i : Flagged) : List Byte := (encode i).flatMap bytesOfWord

/-! ### Bundles (R62, R63, R83, R84) -/

/-- A decoded bundle: its header fields, the instructions it encodes, its length in words. -/
structure Bundle where
  lv : Nat
  d : Bool
  rep : Nat
  items : List (Slot × Flagged)
  words : Nat
  deriving DecidableEq, Repr

/-- The trap of an encoding fault (R83). -/
inductive EncFault | illegalInstruction | illegalSlot | privilege
  deriving DecidableEq, Repr

/-- The instructions reserved to S, and the CSR instructions that name an S-level CSR (R139). -/
def Instr.needsS : Instr → Bool
  | .halt | .eret | .baycfg _ _ _ | .sncfgCreate _ _ _ _ _ | .sncfgDestroy _ _ | .sncfgFlush _ _
  | .cgrpJoin _ _ _ | .cgrpLeave _ _ => true
  | .csrr _ n | .csrw _ _ n | .csrs _ _ n | .csrc _ _ n =>
    decide (0x100 ≤ n.toNat) && decide (n.toNat ≤ 0x1FF)
  | _ => false

/-- The words of a run of `n` instructions at the head of a list, none when it runs out. -/
def spanWords : Nat → List HWord → Option Nat
  | 0, _ => some 0
  | _ + 1, [] => none
  | n + 1, w :: ws =>
    let k := if w.toNat % 4 = 3 then 1 else w.toNat % 4 + 1
    if ws.length + 1 < k then none else (spanWords n (ws.drop (k - 1))).map (· + k)

/-- Decode the instructions of the slots in order; the first fault ends it with its slot (R84). -/
def decodeSlots (sup : Bool) : List Slot → List HWord → Except (EncFault × Fin 8) (List (Slot × Flagged))
  | [], _ => .ok []
  | s :: ss, ws =>
    match decodeWords (some s) ws with
    | .error .slotClass => .error (.illegalSlot, s.index)
    | .error _ => .error (.illegalInstruction, s.index)
    | .ok (i, rest) =>
      if i.ins.needsS && !sup then .error (.privilege, s.index)
      else match decodeSlots sup ss rest with
        | .error e => .error e
        | .ok is => .ok ((s, i) :: is)

/-- Decode the bundle at the head of the words that reach to the end of its bank; `sup` is true at
S. Faults come in the order of R84. -/
def decodeBundle (sup : Bool) : List HWord → Except (EncFault × Fin 8) Bundle
  | [] => .error (.illegalInstruction, 0)
  | h :: ws =>
    let w := h.toNat
    let slots := Slot.all.filter fun s => (h.getLsbD (2 + s.index.val))
    match spanWords slots.length ws with
    | none => .error (.illegalInstruction, 0)
    | some n =>
      if w % 4 ≠ 3 then .error (.illegalInstruction, 0)
      else if fld w 31 20 ≠ 0 then .error (.illegalInstruction, 0)
      else if fld w 15 10 ≠ 0 ∧ h.getLsbD 2 ∧ opcOf (ws.headD 0).toNat ≠ 0 then
        .error (.illegalInstruction, 0)
      else match decodeSlots sup slots ws with
        | .error e => .error e
        | .ok is => .ok ⟨fld w 19 17, bit1 (fld w 16 16), fld w 15 10, is, n + 1⟩

/-- The words of a bundle header (R62). -/
def encodeHeader (lv : Nat) (d : Bool) (rep : Nat) (slots : List Slot) : HWord :=
  BitVec.ofNat 32 (lv * 2 ^ 17 + bitN d * 2 ^ 16 + rep * 2 ^ 10
    + (slots.map fun s => 2 ^ (2 + s.index.val)).sum + 3)

/-- The words of a number of `nbits` bits, the first word its lowest 32 bits, three words in all. -/
def tableWords (w : Nat) : List HWord :=
  [BitVec.ofNat 32 w, BitVec.ofNat 32 (w / 2 ^ 32), BitVec.ofNat 32 (w / 2 ^ 64)]

/-- The instruction the decoder reads from the word `w` of `nbits` bits: bit 0 is the least
significant bit of word 0, later words count on, and the bits above `nbits` are 0. -/
def decodeTableWord (nbits w : Nat) : Option Instr :=
  match decodeWords none (tableWords (w % 2 ^ nbits)) with
  | .ok (i, _) => some i.ins
  | .error _ => none

end Sys2Proof
end

