-- ==== Sys2Proof/Machine/Map.lean ====
section
/-! DEFINITION. Sparse data by key: a list of key and value pairs, keys strictly rising. -/

namespace Sys2Proof.Machine

/-- Sparse data keyed by a number, in rising order of keys. -/
abbrev Map (α : Type) := List (Nat × α)

/-- The value at a key, if one is listed. -/
def Map.get? {α : Type} : Map α → Nat → Option α
  | [], _ => none
  | (k, v) :: m, i => if i = k then some v else if i < k then none else Map.get? m i

/-- The value at a key, or `d`. -/
def Map.getD {α : Type} (m : Map α) (i : Nat) (d : α) : α := (Map.get? m i).getD d

/-- The map with `v` at key `i`. -/
def Map.set {α : Type} : Map α → Nat → α → Map α
  | [], i, v => [(i, v)]
  | (k, w) :: m, i, v =>
    if i < k then (i, v) :: (k, w) :: m else if i = k then (i, v) :: m else (k, w) :: Map.set m i v

/-- The map without key `i`. -/
def Map.erase {α : Type} : Map α → Nat → Map α
  | [], _ => []
  | (k, w) :: m, i => if i = k then m else (k, w) :: Map.erase m i

/-- The map with the value at `i`, if listed, changed by `f`. -/
def Map.adjust {α : Type} (m : Map α) (i : Nat) (f : α → α) : Map α :=
  match Map.get? m i with
  | some v => Map.set m i (f v)
  | none => m

/-- The least key from `lo` below `hi` that is not listed. -/
def Map.freeFrom {α : Type} (m : Map α) (lo : Nat) : Nat → Option Nat
  | 0 => none
  | n + 1 => if (Map.get? m lo).isNone then some lo else Map.freeFrom m (lo + 1) n

/-- Keys strictly rising from above `lo`. -/
def Map.sorted {α : Type} : Option Nat → Map α → Bool
  | _, [] => true
  | none, (k, _) :: m => Map.sorted (some k) m
  | some l, (k, _) :: m => decide (l < k) && Map.sorted (some k) m

end Sys2Proof.Machine
end

