-- ==== Sys2Proof/Machine/Mem.lean ====
section
/-! DEFINITION. Byte memories: a list of cells with addresses strictly rising and no cell equal to
what an unlisted address reads as, which is 0 (log 2). Used for device memory, host memory, peer
memory, the scratchpads, the instruction banks and MRAM. -/

namespace Sys2Proof.Machine

/-- A byte memory in canonical form. -/
abbrev Mem := List Host.Cell

/-- What an address that nothing has written reads as (log 2: DESIGN CHOICE). -/
def Mem.blank : Byte := 0

/-- The byte at an address. -/
def Mem.read : Mem → Nat → Byte
  | [], _ => Mem.blank
  | (k, v) :: m, a => if a = k then v else if a < k then Mem.blank else Mem.read m a

/-- The bytes at `a`, `a + 1`, …, `n` of them. -/
def Mem.readBytes (m : Mem) (a : Nat) : Nat → List Byte
  | 0 => []
  | n + 1 => Mem.read m a :: Mem.readBytes m (a + 1) n

/-- The cells of bytes from `a` on, unlisted where blank. -/
def Mem.cellsOf (a : Nat) : List Byte → Mem
  | [] => []
  | v :: vs => if v = Mem.blank then Mem.cellsOf (a + 1) vs else (a, v) :: Mem.cellsOf (a + 1) vs

/-- The memory with the bytes `vs` at `a`, `a + 1`, … -/
def Mem.writeBytes (m : Mem) (a : Nat) (vs : List Byte) : Mem :=
  m.filter (fun c => decide (c.1 < a)) ++ Mem.cellsOf a vs
    ++ m.filter (fun c => decide (a + vs.length ≤ c.1))

/-- The addresses rise strictly and no cell is blank. -/
def Mem.wf : Mem → Bool
  | [] => true
  | [(_, v)] => v != Mem.blank
  | (a, v) :: (b, w) :: m => v != Mem.blank && decide (a < b) && Mem.wf ((b, w) :: m)

/-- The little-endian number of a byte list (R3). -/
def natOfBytes : List Byte → Nat
  | [] => 0
  | b :: bs => b.toNat + 256 * natOfBytes bs

/-- The `n` little-endian bytes of a number (R3). -/
def bytesOfNat : Nat → Nat → List Byte
  | 0, _ => []
  | n + 1, v => BitVec.ofNat 8 v :: bytesOfNat n (v / 256)

/-- The `n` bytes at `a` as a little-endian number. -/
def Mem.readNat (m : Mem) (a n : Nat) : Nat := natOfBytes (Mem.readBytes m a n)

/-- The memory with the `n` little-endian bytes of `v` at `a`. -/
def Mem.writeNat (m : Mem) (a n v : Nat) : Mem := Mem.writeBytes m a (bytesOfNat n v)

end Sys2Proof.Machine
end

