-- ==== Sys2Proof/Machine/State.lean ====
section
/-! DEFINITION. The state of the SPM-160: everything R9, R25 to R30 and the later chapters give the
machine, as plain data. INVENTORY.md lists each piece with its rule and its reset value. -/

namespace Sys2Proof.Machine

/-! ### Traps (R302) -/

/-- The trap causes. -/
inductive Cause
  | illegalInstruction | illegalSlot | privilegeViolation | illegalOperand | illegalCombination
  | scheduleViolation | maskOverflow | maskUnderflow | bayAccess | bayBounds | misaligned
  | syncStore | addressRange | barrierGen | streamType | poolEmpty
  | softwareTrap | systemCall
  | loadFault | storeFault | protection | roster | remoteAccess | releaseIncomplete
  | engineFault | interrupt
  deriving DecidableEq, Repr

/-- TCAUSE.CODE of a cause. -/
def Cause.code : Cause → Nat
  | .illegalInstruction => 0x01 | .illegalSlot => 0x02 | .privilegeViolation => 0x03
  | .illegalOperand => 0x04 | .illegalCombination => 0x05 | .scheduleViolation => 0x06
  | .maskOverflow => 0x07 | .maskUnderflow => 0x08 | .bayAccess => 0x09 | .bayBounds => 0x0A
  | .misaligned => 0x0B | .syncStore => 0x0C | .addressRange => 0x0D | .barrierGen => 0x0E
  | .streamType => 0x0F | .poolEmpty => 0x10 | .softwareTrap => 0x18 | .systemCall => 0x19
  | .loadFault => 0x20 | .storeFault => 0x21 | .protection => 0x22 | .roster => 0x23
  | .remoteAccess => 0x24 | .releaseIncomplete => 0x25 | .engineFault => 0x30 | .interrupt => 0x40

/-- The two privileges of a context (R32). -/
inductive Priv | U | S
  deriving DecidableEq, Repr

/-! ### A context -/

/-- The state of a vector name (R14); MAPPED carries the physical register. -/
inductive VName
  | unmapped
  | mapped (pv : Fin 56)
  | spilled
  deriving DecidableEq, Repr

/-- What last wrote a busy result tile (R173): MZERO or MPUT, or an array operation with its opcode,
its types and its place in the tile's order of admissions. -/
inductive LastWriter
  | put
  | array (opc : Nat) (fa fb : MType) (order : Nat)
  deriving DecidableEq, Repr

/-- A result tile with its shadow and status (R19, R20). -/
structure RTile where
  val : VImage
  shadow : VImage
  xmode : Bool
  te : BitVec 9
  busy : Bool
  last : LastWriter
  deriving DecidableEq, Repr

def RTile.start : RTile := ⟨0, 0, false, 0, false, .put⟩

/-- A loop level (R23) with its arm (R111). -/
structure Level where
  act : Bool
  init : BitVec 24
  cur : BitVec 24
  arm : Option XReg
  deriving DecidableEq, Repr

def Level.start : Level := ⟨false, 0, 0, none⟩

/-- A running nest (R112, R113): its levels, N, the captured bundles, the words counted in this
pass, whether capture is complete, the next bundle's place in the pass, where the body starts,
and whether the end-of-pass step still waits for a load (R113). -/
structure Nest where
  lo : LevelNo
  hi : LevelNo
  n : Nat
  body : List Bundle
  counted : Nat
  complete : Bool
  pos : Nat
  start : Word
  waiting : Bool
  deriving DecidableEq, Repr

/-- A held instruction with its flags and the LV of its header (R64). -/
structure Held where
  ins : Flagged
  lv : Nat
  deriving DecidableEq, Repr

def Held.nop : Held := ⟨⟨.nop, false, false⟩, 7⟩

/-- The destination of an exposed-latency result (R306): for a V register the physical register
fixed at issue (R146), for a mask-stack change the entry written and the new depth. -/
inductive Dest
  | x (r : XReg)
  | a (r : AReg)
  | v (r : VReg) (pv : Fin 56)
  | cm
  | ms (entry : Fin 16) (write : Bool) (depth : BitVec 5)
  deriving DecidableEq, Repr

/-- A result in flight (R71): its result clock, its slot, its value under its mask, its flags. -/
structure Flight where
  issued : Nat
  due : Nat
  slot : Fin 8
  dest : Dest
  val : Word
  vec : VImage
  mask : Mask
  ffl : BitVec 7
  mnar : Bool
  deriving DecidableEq, Repr

/-- A panel of AF or BF with its type tag (R167): records back to back from byte 0. -/
structure Panel where
  ty : MType
  data : VImage
  poison : Bool
  deriving DecidableEq, Repr

/-- An entry of MQ: 256 bytes (R169). -/
structure MetaEntry where
  data : BitVec 2048
  poison : Bool
  deriving DecidableEq, Repr

/-- What a matrix operation does at its result clock (R174 to R176). -/
inductive MKind
  | array (opc : Nat) (n : Nat) (fa fb : MType) (acc : Bool)
  | zero
  | put (v : VImage)
  deriving DecidableEq, Repr

/-- An admitted matrix operation (R172): its instruction word, which a matrix record keeps (R326), the entries it
reserved, its admission and result clocks. -/
structure MatOp where
  due : Nat
  admitted : Nat
  rt : RtReg
  word : HWord
  kind : MKind
  af : List Panel
  bf : List Panel
  mq : List MetaEntry
  deriving DecidableEq, Repr

/-- STATE of a pending record (R307). -/
inductive GStat | done | faulted | replay | outstanding
  deriving DecidableEq, Repr

/-- A G access that is not complete (R204, R307): the instruction, the formed address, the data,
and what the pending record of a frame holds of it; one that a rollback has taken out of LD and ST is `uncounted` (R321). -/
structure GAcc where
  id : Nat
  ins : Flagged
  ea : Word
  data : Word
  vec : VImage
  arg : Word
  stat : GStat
  fcode : BitVec 8
  dlv : Bool
  pv : Fin 56
  due : Nat
  uncounted : Bool
  deriving DecidableEq, Repr

/-- The trap frame (R306 to R309), from entry until ERET; `base` is its address in memory. -/
structure Frame where
  cause : Word
  epc : Word
  eclk : Nat
  held : Vector Held 8
  repl : Option Nat
  nondrain : Bool
  levels : Vector Level 6
  nest : Option Nest
  latches : List Flight
  pend : List GAcc
  defer : List DefRec
  dovf : Nat
  handlerIssued : Bool
  deriving DecidableEq, Repr

/-- What ERET left to be done when the bundle at TEPC issues (R310): the latches, their `due` holding
REM, and the pending records to write or to replay. -/
structure Reinject where
  latches : List Flight
  pend : List GAcc
  deriving DecidableEq, Repr

/-- The registers of a context that a segment entry checkpoints (R317): registers, CSRs, loop state,
mask stack, rename map and class counters. -/
structure Regs where
  pc : Word
  xs : Vector Word 32
  as : Vector Word 16
  asteps : Vector HWord 16
  lstr : Vector HWord 96
  vmap : Vector VName 32
  ms : Vector Mask 16
  msd : BitVec 5
  cm : Mask
  lcs : Vector Level 6
  nest : Option Nest
  ld : Nat
  st : Nat
  cp : Nat
  tok : Nat
  fpctl : Word
  stky : Word
  pprv : Bool
  ie : Bool
  tvec : Word
  tcause : Word
  tepc : Word
  sscr : Word
  dmiss : Word
  priv : Priv
  held : Vector Held 8
  rep : Option Nat
  slots : Vector Word 16
  nres : Bool
  deriving DecidableEq, Repr

/-- The registers with which a task starts (R33); `pc` is the kernel entry. -/
def Regs.start (pc : Word) : Regs :=
  { pc := pc, xs := Vector.replicate 32 0, as := Vector.replicate 16 0,
    asteps := Vector.replicate 16 0, lstr := Vector.replicate 96 0,
    vmap := Vector.replicate 32 .unmapped,
    ms := (Vector.replicate 16 0).set 0 (BitVec.allOnes 1024), msd := 1, cm := 0,
    lcs := Vector.replicate 6 Level.start, nest := none,
    ld := 0, st := 0, cp := 0, tok := 0, fpctl := 0, stky := 0,
    pprv := false, ie := false, tvec := 0, tcause := 0, tepc := 0, sscr := 0, dmiss := 0,
    priv := .U, held := Vector.replicate 8 Held.nop, rep := none,
    slots := Vector.replicate 16 0, nres := false }

/-- A held effect (R318): a G store by its identity, known once it has passed translation (log 12), or
a step released at commit, with the hold entries it takes, the segment it belongs to, and the identity that the
context's next access takes: what it was issued behind has a lower one. -/
inductive HoldKind
  | store (id ea : Nat) (bytes : List Byte) (accepted : Bool)
  | step (ev : Instr)
  deriving DecidableEq, Repr

structure Hold where
  seg : Nat
  after : Nat
  entries : Nat
  kind : HoldKind
  deriving DecidableEq, Repr

/-- A segment entry (R317): its number, when it commits, whether the segment that ended at it was
exposed (R320), the identity that the next access takes, its checkpoint, and the trap frame live at it. -/
structure SegEntry where
  seg : Nat
  commitAt : Nat
  committed : Bool
  afterExposed : Bool
  firstId : Nat
  regs : Regs
  frame : Option Frame
  reinject : Option Reinject
  deriving DecidableEq, Repr

/-- The task a context runs, with where its code stands (R350). `owner` is the handle of the launch or the
spawned task it belongs to; a task that holds no task-table slot has slot 16,384. -/
structure Task where
  tid : Nat
  slot : Nat
  owner : Nat
  launch : Bool
  spawned : Bool
  descAddr : Nat
  index : Nat
  prio : BitVec 3
  resumable : Bool
  feeds : Bool
  code : Nat
  codesz : Nat
  mramoff : Nat
  boundAt : Nat
  deriving DecidableEq, Repr

/-- What a context is doing (R117, R129, R305, R357, R359). -/
inductive Run
  | free
  | selected       -- chosen, not yet bound (R355)
  | loading        -- bound, its code still on the way (R357)
  | bound
  | halted
  | winding        -- the task has ended (R117)
  | saving         -- pre-empted, its save under way (R361)
  | restoring
  | stopped        -- a double fault or poison: nothing issues until the partition's reset
  deriving DecidableEq, Repr

/-- The continuation a task-ending wait takes with it (R118), waiting for the commit of its entry. -/
structure WaitReg where
  idx : Nat
  bar : Bool
  obj : Word
  arg : Word
  live : Live
  status : XReg
  resume : Word
  deriving DecidableEq, Repr

/-- A hardware context (R9). `atEntry` tells that it stands at a segment entry to which it was rolled back (R35). Its
segments numbered below `freed` have been exposed (R320). `tookInts`, `tookDefer` and `tookDovf` are what its traps have
taken since its last committed entry, each with its segment: a rollback raises those traps again (R321). -/
structure Ctx where
  regs : Regs
  rts : Vector RTile 8
  af : List Panel
  bf : List Panel
  mq : List MetaEntry
  dq : List DefRec
  dovf : Nat
  dvfs : Option (Fin 8)
  run : Run
  task : Option Task
  flight : List Flight
  mops : List MatOp
  gaccs : List GAcc
  ints : List (BitVec 10)
  frame : Option Frame
  reinject : Option Reinject
  npc : Option Word
  resumeAt : Nat
  yielded : Bool
  flagsNow : BitVec 7
  stkyNow : Word
  afterIssue : Option (Cause × BitVec 20)
  endWait : Option (Option WaitReg)
  seg : Nat
  segs : List SegEntry
  exposed : Bool
  freed : Nat
  hold : List Hold
  tookInts : List (Nat × BitVec 10)
  tookDefer : List (Nat × DefRec)
  tookDovf : List (Nat × Nat)
  reached : Bool
  commitWait : Bool
  atEntry : Bool
  preempt : Bool
  turnClocks : Nat
  turnFrom : Nat
  deriving DecidableEq, Repr

def Ctx.start : Ctx :=
  { regs := Regs.start 0, rts := Vector.replicate 8 RTile.start, af := [], bf := [], mq := [],
    dq := [], dovf := 0, dvfs := none, run := .free, task := none, flight := [],
    mops := [], gaccs := [], ints := [], frame := none, reinject := none, npc := none,
    resumeAt := 0, yielded := false, flagsNow := 0, stkyNow := 0, afterIssue := none,
    endWait := none, seg := 0, segs := [], exposed := false, freed := 0, hold := [], tookInts := [],
    tookDefer := [], tookDovf := [], reached := false,
    commitWait := false, atEntry := false, preempt := false, turnClocks := 0, turnFrom := 0 }

/-! ### A tile -/

/-- A physical vector register of the pool (R14, R16); an operation that reads it is in flight until
the clock `inUse`. -/
structure PReg where
  owner : Option (CtxNo × VReg)
  val : VImage
  lastAcc : Nat
  inUse : Nat
  deriving DecidableEq, Repr

/-- The state of a bay (R25). -/
inductive BayState | empty | filling | ready | draining
  deriving DecidableEq, Repr

/-- A bay table entry (R25); `launch` is the handle of the launch or spawned task that configured it, if one
did (R357). -/
structure Bay where
  own : BitVec 4
  front : Bool
  keep : Bool
  sync : Bool
  shadow : Bool
  st : BayState
  size : BitVec 12
  base : BitVec 12
  launch : Option Nat
  deriving DecidableEq, Repr

def Bay.start : Bay := ⟨0, false, false, false, false, .empty, 0, 0, none⟩

/-- An instruction bank (R9, R215, R357): its words as bytes, the image it holds, as the launch or the tasks
spawned from one descriptor that it was loaded for and the address of its code, the task and the command of each copy
that reserves it, whether a load is under way. -/
structure Bank where
  mem : Mem
  image : Option (Nat × Nat)
  resv : List (Nat × Nat)
  loading : Bool
  deriving DecidableEq, Repr

def Bank.start : Bank := ⟨[], none, [], false⟩

/-- The kind of memory a translation leads to (R338). -/
inductive Home
  | dram (pa : Nat)
  | host (a : Nat)
  | peer (dn : Nat) (pa : Nat)
  deriving DecidableEq, Repr

/-- A line of an L1 (R334): 256 bytes, the dirty bytes of each context, where the line belongs, and which of its
four 64-byte units are poisoned (R337, R394). -/
structure Line where
  data : BitVec 2048
  dirty : Vector (BitVec 256) 4
  home : Home
  bad : BitVec 4
  deriving DecidableEq, Repr

/-- How far an engine command has come (R215, R219). -/
inductive CmdStat | held | issued | started | read | complete
  deriving DecidableEq, Repr

/-- An engine command (R211 to R224, R274): the operand values at issue, its state, the bytes it has read with their
destinations and the CRC32C of each unit of them (R395), the panels pushed, the barrier counts it raised, the fault that
awaits it at its start, whether it reserved its bank, the bytes under later stores to its source, in global memory and
in the scratchpad (R293), the global ranges that it reads as fixed at its start (R213, R340), and how many bytes of a copy
into a bank stand there (R215). -/
structure Cmd where
  id : Nat
  ctx : CtxNo
  tid : Nat
  ctxid : Word
  ins : Flagged
  ops : Vector Word 4
  stat : CmdStat
  slot : Option SlotNo
  seg : Nat
  buf : List (Nat × List Byte)
  sums : List (BitVec 32)
  crc : BitVec 32
  crcBad : Bool
  srcBay : Option BayNo
  dstBay : Option BayNo
  srcPrior : BayState
  dstPrior : BayState
  prog : Nat
  bar : Option Word
  inn : Bool
  out : Bool
  poison : Bool
  tiles : List Nat
  cover : List Nat
  origin : Nat
  born : Nat
  doom : Option Nat
  reserves : Bool
  under : List (Nat × List Byte)
  underSp : List (Nat × List Byte)
  srcs : List (Nat × Nat)
  landed : Nat
  deriving DecidableEq, Repr

/-- The open MRAM transaction of a tile (R223, R224). -/
structure Journal where
  owner : CtxNo
  units : List (Nat × List Byte)
  bytes : Nat
  fail : Nat
  committing : Option Nat
  deriving DecidableEq, Repr

/-- What an undo record restores (R319): old bytes of a unit of the scratchpad under a write, or under a BAYREL that
left them meaningless (R201), which takes no room of the log (log 83); a bay's entry; a V name; a result tile. `bad` tells
that what the record keeps is poisoned (R394). -/
inductive UndoKind
  | scratch (off : Nat) (old : List Byte) (newer : BitVec 64)
  | stale (off : Nat) (old : List Byte) (newer : BitVec 64)
  | bay (n : BayNo) (old : Bay)
  | vreg (n : VReg) (old : VImage)
  | rt (n : RtReg) (old : RTile)
  deriving DecidableEq, Repr

structure Undo where
  ctx : CtxNo
  seg : Nat
  kind : UndoKind
  bad : Bool
  deriving DecidableEq, Repr

/-- What the sweep area and the NVFFs keep of a context over a power loss (R33, R326, R328): DRAINED (1) or
LATCHED (2), whether its task is resumable, what it was doing, the array operations and the commands of its
records, and its stop clock. -/
structure CtxSave where
  state : Nat
  resumable : Bool
  was : Run
  ctx : Ctx
  vals : List (VReg × VImage)
  mats : List MatOp
  cmds : List Cmd
  stop : Nat
  deriving DecidableEq, Repr

/-- The resume record of a tile (R328) with the swept state it covers; it is VALID once the sweep is done. -/
structure Resume where
  valid : Bool
  ctxs : Vector (Option CtxSave) 4
  keep : List (BayNo × List Byte)
  arrayFree : Nat
  deriving DecidableEq, Repr

/-- The power states of a tile (R385) with the changes under way. -/
inductive TilePower | off | idle | run | waking | goingOff (wakeAfter : Bool)
  deriving DecidableEq, Repr

/-- A tile (R9). `barAt` tells of each barrier in which clock an operation of which context last reached it (R192);
`redo` are the commands that a resume is to issue again, each with its clock (R329); `feedBay`, `feedMem` and `feedGlob` are
the ticks until which the path of its CFEEDs from bays, its read path of MRAM (R331) and its path to global memory are in
use (R342); `tests` and `fails` count the
known-answer operations placed in it and their mismatches (R322). -/
structure Tile where
  power : TilePower
  idleSince : Nat
  idleClocks : Nat
  holdUntil : Nat
  quarantined : Bool
  cycle : Nat
  nextAt : Nat
  turn : CtxNo
  ctxs : Vector Ctx 4
  pool : Vector PReg 56
  home : Map VImage
  spill : Option Nat
  sp : Mem
  spPoison : List Nat
  bays : Vector Bay 64
  banks : Vector Bank 2
  l1 : Map Line
  vFree : Nat
  wFree : Nat
  arrayFree : Nat
  arrayOrder : Nat
  cmds : List Cmd
  mram : Mem
  mramPoison : List Nat
  journal : Option Journal
  wear : Map (Nat × Nat)
  spares : Nat
  retired : List Nat
  undo : List Undo
  resume : Option Resume
  barAt : Map Nat
  redo : List (Nat × Cmd)
  feedBay : Nat
  feedMem : Nat
  feedGlob : Nat
  tests : Nat
  fails : Nat
  deriving DecidableEq, Repr

def Tile.start : Tile :=
  { power := .off, idleSince := 0, idleClocks := 0, holdUntil := 0, quarantined := false,
    cycle := 0, nextAt := 0, turn := 0, ctxs := Vector.replicate 4 Ctx.start,
    pool := Vector.replicate 56 ⟨none, 0, 0, 0⟩, home := [], spill := none, sp := [], spPoison := [],
    bays := Vector.replicate 64 Bay.start, banks := Vector.replicate 2 Bank.start, l1 := [],
    vFree := 0, wFree := 0, arrayFree := 0, arrayOrder := 0, cmds := [], mram := [],
    mramPoison := [], journal := none, wear := [], spares := 1024, retired := [], undo := [],
    resume := none, barAt := [], redo := [], feedBay := 0, feedMem := 0, feedGlob := 0, tests := 0, fails := 0 }

/-! ### A cluster -/

/-- A line of a cluster cache (R334): 256 bytes, those not yet written back, where they belong, and which of its four
64-byte units are poisoned (R337, R394). -/
structure CLine where
  data : BitVec 2048
  dirty : BitVec 256
  home : Home
  bad : BitVec 4
  deriving DecidableEq, Repr

/-- A cluster (R1, R389 to R391) with the lines of its cache (R334). -/
structure Cluster where
  level : Fin 8
  dl : Fin 8
  bl : Fin 8
  change : Option (Fin 8)
  lowers : Bool
  crun : Nat
  cstall : Nat
  samples : List (Nat × Nat)
  cache : Map CLine
  part : Option PartNo
  deriving DecidableEq, Repr

/-! ### A partition -/

/-- A range of indices of a launch (R352, R353): unowned, or owned by a context. -/
structure Range where
  lo : Nat
  hi : Nat
  die : Option Nat
  owner : Option (TileNo × CtxNo)
  deriving DecidableEq, Repr

/-- A bay entry of a kernel descriptor (R350). -/
structure BayImage where
  num : BayNo
  own : BitVec 4
  keep : Bool
  sync : Bool
  shadow : Bool
  size : BitVec 12
  base : BitVec 12
  deriving DecidableEq, Repr

/-- A kernel descriptor as read and checked (R350, R351); `ext` are the S and D extents. -/
structure Desc where
  code : Nat
  codesz : Nat
  entry : Nat
  resumable : Bool
  mcode : Bool
  prio : BitVec 3
  mramoff : Nat
  ctxmax : Nat
  bays : List BayImage
  fifo : BitVec 3
  wake : BitVec 160
  dext : List Nat
  sext : List Nat
  deriving DecidableEq, Repr

/-- Where a launch came from (R355, R363). -/
inductive Origin
  | queue (f : FuncNo) (q : QueueNo)
  | table (e : Fin 64) (prio : BitVec 3)
  deriving DecidableEq, Repr

/-- An accepted launch (R347). -/
structure Launch where
  desc : Desc
  descAddr : Nat
  words : Vector Word 8
  total : Nat
  origin : Origin
  readyAt : Nat
  ranges : List Range
  noMore : Bool
  tag : BitVec 32
  deriving DecidableEq, Repr

/-- A spawned task (R125): its counter with the time at which it reached 0 (R126), whether its checks have passed, its
ready clock once it is ready. -/
structure Spawn where
  descAddr : Nat
  wordsAddr : Nat
  desc : Option Desc
  words : Vector Word 8
  counter : Nat
  zeroAt : Option Nat
  readyAt : Option Nat
  running : Bool
  poster : Word
  deriving DecidableEq, Repr

/-- A task saved by pre-emption (R361). -/
structure Saved where
  tile : TileNo
  ctx : Ctx
  vals : List (VReg × VImage)
  task : Task
  readyAt : Nat
  recNo : Nat
  taken : Bool
  deriving DecidableEq, Repr

/-- What a task-table slot holds (R354): a saved task stands in `saves` under its slot. -/
inductive SlotUse
  | launch (l : Launch)
  | spawn (s : Spawn)
  | saved
  deriving DecidableEq, Repr

/-- A task-table slot with its generation (R125, R358). -/
structure TSlot where
  gen : BitVec 8
  use : Option SlotUse
  deriving DecidableEq, Repr

/-- A continuation of the pool (R118, R119): the registers it carries, the next waiter behind it in
its object's list, its threshold, and its status once enqueued. -/
structure Cont where
  task : Task
  resume : Word
  status : XReg
  xs : List (XReg × Word)
  as : List (AReg × Word)
  vs : List (VReg × VImage)
  fpctl : Word
  stky : Word
  next : Option Nat
  threshold : Word
  ready : Option (Nat × Nat)
  deriving DecidableEq, Repr

/-- An armed timer (R124) with the context whose TARM armed it, and the identity below which lie the accesses that the
TARM was issued behind (R128). -/
structure Timer where
  tile : TileNo
  ctx : CtxNo
  after : Nat
  deadline : Nat
  obj : Word
  addend : Word
  deriving DecidableEq, Repr

/-- An entry of the binding table (R209): the object's home and the range. -/
structure Bind where
  obj : Home
  lo : Nat
  len : Nat
  deriving DecidableEq, Repr

/-- A bound group slot (R266): the group, and collectives outstanding on it. -/
structure GSlot where
  handle : Word
  group : BitVec 16
  deriving DecidableEq, Repr

/-- A dirty window (R381): its base and its bitmap. -/
structure Window where
  base : Nat
  bits : BitVec 32768
  deriving DecidableEq, Repr

/-- A change of a present leaf under way (R299, R340): its page, the entry it becomes (none for a removal), whether
it is a flip, the proposal it answers, and the host's writes that wait for a flip (R299). -/
structure PageJob where
  va : Nat
  big : Bool
  leaf : Option Word
  flip : Bool
  src : Option PropSrc
  held : List (Nat × List Byte)
  deriving DecidableEq, Repr

/-- A partition (R368, R369). `resume` stands from a power loss until R329 is decided, and tells whether the hub
lets it resume (R366); `ttOpen` are the entries of the time-triggered table whose released command is not yet accepted, in
order of release (R363); `ttCtl` are the CTL fields the Ballast captured; `faulted` stands until event 0x003 is
posted (R447). -/
structure Partition where
  live : Bool
  clu : BitVec 40
  vf : Fin 64
  prot : Bool
  colours : BitVec 64
  lquota : Nat
  saven : Nat
  saveb : Nat
  frameb : Nat
  ttab : Nat
  wdog : Nat
  quant : Nat
  tframe : Nat
  poollim : Nat
  poolUsed : Nat
  tasks : Map TSlot
  conts : Map Cont
  timers : Map Timer
  binds : Map Bind
  saves : Map Saved
  gslots : Vector (Option GSlot) 16
  pt : Map Word
  tableNext : Nat
  windows : Vector (Option Window) 2
  key : Option (BitVec 512)
  measured : List (List Word)
  offDelay : Nat
  paused : Bool
  resume : Option Bool
  ttOpen : List (Fin 64)
  ttCtl : List Byte
  faulted : Bool
  jobs : List PageJob
  deriving DecidableEq, Repr

def Partition.start : Partition :=
  { live := false, clu := 0, vf := 0, prot := false, colours := 0, lquota := 0, saven := 0,
    saveb := 0, frameb := 0, ttab := 0, wdog := 0, quant := 0, tframe := 0, poollim := 0,
    poolUsed := 0, tasks := [], conts := [], timers := [], binds := [], saves := [],
    gslots := Vector.replicate 16 none, pt := [], tableNext := 0,
    windows := Vector.replicate 2 none, key := none, measured := [], offDelay := 20000,
    paused := false, resume := none, ttOpen := [], ttCtl := [], faulted := false, jobs := [] }

/-! ### Functions of the host link -/

/-- QSTAT.STATE (R343). -/
inductive QState | disabled | running | error
  deriving DecidableEq, Repr

/-- A command queue's registers (R343). -/
structure Queue where
  base : Word
  host : Bool
  prio : BitVec 3
  log2 : BitVec 5
  tail : BitVec 32
  head : BitVec 32
  fidx : BitVec 32
  ecode : BitVec 8
  state : QState
  open_ : List (Nat × BitVec 8)
  deriving DecidableEq, Repr

def Queue.start : Queue := ⟨0, false, 0, 4, 0, 0, 0, 0, .disabled, []⟩

/-- TDISPST (R370, R378). -/
inductive Tdisp | unlocked | locked | run | error
  deriving DecidableEq, Repr

/-- A function's registers (R370); `config` is its BAR and SR-IOV configuration, of which the manual gives no layout, by the
number of the word (R378, log 33). -/
structure Func where
  queues : Vector Queue 16
  evbase : Word
  evcfg : Word
  evtail : BitVec 32
  evhead : BitVec 32
  evovf : BitVec 32
  mpbase : Word
  mpcfg : Word
  mptail : BitVec 32
  mphead : BitVec 32
  errc : Vector Word 6
  tdisp : Tdisp
  mbcmd : Word
  mbarg : Vector Word 4
  msix : Vector Word 16
  pba : Word
  resetting : Bool
  part : Option PartNo
  lastServed : Fin 16
  signals : Nat
  lastSignal : Option Nat
  config : Map Word
  deriving DecidableEq, Repr

def Func.start : Func :=
  { queues := Vector.replicate 16 Queue.start, evbase := 0, evcfg := 0, evtail := 0, evhead := 0,
    evovf := 0, mpbase := 0, mpcfg := 0, mptail := 0, mphead := 0, errc := Vector.replicate 6 0,
    tdisp := .unlocked, mbcmd := 0, mbarg := Vector.replicate 4 0, msix := Vector.replicate 16 0,
    pba := 0, resetting := false, part := none, lastServed := 0, signals := 0,
    lastSignal := none, config := [] }

/-! ### The Lantern -/

/-- A node of the store (R231); NGEN stands in `Lantern.ngen`. -/
structure Node where
  key : Nat
  bad : Bool
  chain : Bool
  parent : Nat
  depth : Nat
  holds : Nat
  children : Nat
  stamp : BitVec 32
  cost : BitVec 32
  paddr : Nat
  plen : Nat
  tree : Nat
  deriving DecidableEq, Repr

/-- A tree (R230) with its secrets (R235) and counters (R246). -/
structure Tree where
  part : PartNo
  g : Nat
  limit : Nat
  ring : Nat
  root : Nat
  seed : Nat
  mult : Nat
  hits : Word
  misses : Word
  collisions : Word
  evictions : Word
  deriving DecidableEq, Repr

structure Lantern where
  nodes : Map Node
  ngen : Map (BitVec 8)
  trees : Map Tree
  deriving DecidableEq, Repr

/-! ### Links and groups -/

inductive PortState | up8 | up4 | retrain (wide : Bool) | down
  deriving DecidableEq, Repr

/-- A Tetherlink port (R257 to R259): the retired lanes, the spare, the corrected-error threshold, the lane and the
number of the failed replays in a row of the flit that is replayed, and the peers the routing table reaches through it. -/
structure Port where
  st : PortState
  retired : BitVec 9
  spareUsed : Bool
  threshold : Nat
  replays : Option (Fin 9 × Nat)
  peers : List (BitVec 6)
  deriving DecidableEq, Repr

def Port.start : Port := ⟨.down, 0, false, 0, none, []⟩

/-- A reduction group as a member partition's security core knows it (R261 to R264). -/
structure Group where
  handle : Word
  part : PartNo
  rank : Nat
  rosters : List Roster
  key : Option (BitVec 256)
  nextSeq : Nat
  counter : Nat
  deriving DecidableEq, Repr

/-- A collective of one group and sequence number at this device (R270 to R275). -/
structure Coll where
  part : PartNo
  group : BitVec 16
  seq : Nat
  tile : TileNo
  cmd : Nat
  offer : CollOffer
  matched : Bool
  inputs : List (Nat × List (BitVec 32))
  parts : List (CollStage × List (BitVec 32))
  deriving DecidableEq, Repr

/-! ### The package -/

inductive PkgState | powerOff | boot | run | holdUp | recovery
  deriving DecidableEq, Repr

/-- What runs on the Gondola (R377). -/
inductive Gondola | none | recovery | valid
  deriving DecidableEq, Repr

/-- A sync-object line (R208): its home, and the tile whose L1 holds it exclusively, which its directory entry in the
system cache names (R334). -/
structure SyncLine where
  home : Home
  holder : Option TileNo
  deriving DecidableEq, Repr

/-- The package (R384, R397, R398). `check` is the checkpoint under way: its partitions, whether they stay paused,
whether they have all stopped (R393); `stopTime` is STOPT (R328), `failAt` the tick of detection; `failed` are the resources
that BOOT found failed, as it reports them to the PF (R399). -/
structure Package where
  state : PkgState
  frozen : Bool
  gondola : Gondola
  meas : Map (BitVec 512)
  throttled : Bool
  recovering : Bool
  throttles : Nat
  lowered : Option Nat
  chashKey : BitVec 6
  dn : Option (BitVec 6)
  ptpSource : Option Nat
  ptpLocked : Bool
  booting : Option BootVerdict
  checkpoints : Nat
  check : Option (BitVec 40 × Bool × Bool)
  stopTime : Nat
  failAt : Nat
  failed : List BootPart
  deriving DecidableEq, Repr

def Package.start : Package :=
  { state := .powerOff, frozen := false, gondola := .none, meas := [], throttled := false, recovering := false,
    throttles := 0, lowered := none, chashKey := 0, dn := none, ptpSource := none, ptpLocked := false,
    booting := none, checkpoints := 0,
    check := none, stopTime := 0, failAt := 0, failed := [] }

/-- The states of a frame of device memory (R372). -/
inductive FrameState | assigned | mapped | table | scrub (then_ : Bool)
  deriving DecidableEq, Repr

/-- The prologue engine while a prologue runs (R348, R349): the context it computes with, its image,
the command it serves, the bundles issued, the launches emitted, the holds not yet passed on. -/
structure Prologue where
  func : FuncNo
  origin : Origin
  part : PartNo
  ctx : Ctx
  cycle : Nat
  image : Mem
  size : Nat
  descAddr : Nat
  words : Vector Word 8
  tag : BitVec 32
  bundles : Nat
  emits : Nat
  holds : List Word
  ended : Bool
  fault : Bool
  deriving DecidableEq, Repr

/-- Which context the instruction meanings act for. -/
inductive Cur
  | hw (t : TileNo) (c : CtxNo)
  | gondola
  deriving DecidableEq, Repr

/-- An internal event not yet due: the tick, the order within the tick (R127), and the step. -/
structure Due where
  at_ : Nat
  key : Nat
  ev : Instr
  deriving DecidableEq, Repr

/-- The package with everything in it, and the model's own fields. `sysCache` are the lines of device memory that the
system cache holds, each with whether it is dirty (R334); `peerPoison` are the poisoned units of peers' memory (R382).
`inputs` is what comes from outside and `errs` the errors of stored and moving data, each with its tick: that from which
a step takes it, or at which a check meets it (log 6). -/
structure State where
  now : Nat
  timeOff : Nat
  timeAt : Nat
  slew : Int
  pkg : Package
  dram : Mem
  host : Mem
  peer : Mem
  poison : List Nat
  sysCache : Map Bool
  peerPoison : List Nat
  frames : Map (FrameState × PartNo)
  syncLines : List SyncLine
  incomplete : List Home
  regions : List Nat
  ports : Vector Port 12
  unreachable : BitVec 64
  groups : List Group
  colls : List Coll
  lantern : Lantern
  funcs : Vector Func 65
  clusters : Vector Cluster 40
  parts : Vector Partition 40
  tiles : Vector Tile 160
  prologue : Option Prologue
  inputs : List (Nat × Instr)
  errs : List (Nat × MemErr)
  agenda : List Due
  nextId : Nat
  freeCtr : Nat
  cur : Cur
  slot : Slot
  deriving DecidableEq, Repr

/-- A cluster at package power-off; DL is FL (R389) and BL is L7 (log 3). -/
def Cluster.start (k : ClusterNo) : Cluster :=
  { level := Config.fusedLevel k, dl := Config.fusedLevel k, bl := 7, change := none, lowers := false, crun := 0,
    cstall := 0, samples := [], cache := [], part := none }

/-- The machine after reset: the package in POWEROFF (R398, log 6), nothing running, no partition,
memory with nothing listed. -/
def State.reset : State :=
  { now := 0, timeOff := 0, timeAt := 0, slew := 0,
    pkg := Package.start,
    dram := [], host := [], peer := [], poison := [], sysCache := [], peerPoison := [], frames := [], syncLines := [],
    incomplete := [], regions := [], ports := Vector.replicate 12 Port.start, unreachable := 0, groups := [],
    colls := [], lantern := ⟨[], [], []⟩, funcs := Vector.replicate 65 Func.start,
    clusters := Vector.ofFn Cluster.start, parts := Vector.replicate 40 Partition.start,
    tiles := Vector.replicate 160 Tile.start, prologue := none, inputs := [], errs := [], agenda := [],
    nextId := 0, freeCtr := 0, cur := .hw 0 0, slot := .K }

/-! ### How a step can stop -/

/-- Why the machine stops with a fault. -/
inductive Fault
  /-- Raised by `execPeerAccessRequest` for a peer's access that names a device physical address outside the
  768 GiB of R337, at which there is no memory. Safe: the machine stops. -/
  | noMemory (pa : Nat)
  deriving DecidableEq, Repr

/-- Why an instruction has no meaning. -/
inductive Refusal
  /-- Raised by an arm of `exec` whose instruction has no meaning yet. Safe: the machine stops. -/
  | notModelled (mnemonic : String)
  deriving DecidableEq, Repr

end Sys2Proof.Machine
end

