-- ==== Sys2Proof/Machine/Flags.lean ====
section
/-! DEFINITION. Number formats, exact arithmetic and flags (R36 to R59): FP32, FP16 and BF16 values,
the one rounding of R39 and R46, the flags of R40, integer division and bit fields (R41 to R43), RB
records (R44), residues (R47, R48), CRC32C (R217). -/

namespace Sys2Proof.Machine

/-! ### Flags: FPCTL[10:4], NV in bit 0 (R30) -/

abbrev Fl := BitVec 7
def flNV : Fl := 1
def flDZ : Fl := 2
def flOF : Fl := 4
def flUF : Fl := 8
def flNX : Fl := 16
def flCVN : Fl := 32
def flSAT : Fl := 64

/-- A flag raised when a condition holds. -/
def flagIf (c : Bool) (f : Fl) : Fl := if c then f else 0

/-- The rounding modes of R39. -/
inductive Rm | rne | rz | rup | rdn
  deriving DecidableEq, Repr

def rmOf (n : Nat) : Rm :=
  match n % 4 with | 0 => .rne | 1 => .rz | 2 => .rup | _ => .rdn

/-- The control of a governed operation: RM and FTZ (R30). -/
structure FpCtl where
  rm : Rm
  ftz : Bool
  deriving DecidableEq, Repr

/-- FPCTL's RM and FTZ. -/
def fpCtlOf (fpctl : Word) : FpCtl := ⟨rmOf (fpctl.toNat % 4), fpctl.getLsbD 2⟩

/-- The matrix engine's and the collective engine's rounding (R49, R272). -/
def FpCtl.engine : FpCtl := ⟨.rne, false⟩

/-! ### Formats (R37) -/

/-- A binary format: exponent bits and fraction bits. -/
structure Fmt where
  eb : Nat
  fb : Nat
  deriving DecidableEq, Repr

def f32 : Fmt := ⟨8, 23⟩
def f16 : Fmt := ⟨5, 10⟩
def b16 : Fmt := ⟨8, 7⟩

def Fmt.bias (f : Fmt) : Int := 2 ^ (f.eb - 1) - 1
/-- The code of +∞. -/
def Fmt.inf (f : Fmt) : Nat := (2 ^ f.eb - 1) * 2 ^ f.fb
/-- The canonical NaN (R38). -/
def Fmt.nan (f : Fmt) : Nat := f.inf + 2 ^ (f.fb - 1)
/-- The largest finite magnitude. -/
def Fmt.maxMag (f : Fmt) : Nat := f.inf - 1
def Fmt.signBit (f : Fmt) : Nat := 2 ^ (f.eb + f.fb)

/-- A floating-point datum: a NaN (signalling or not), an infinity, or (−1)^neg × m × 2^e. -/
inductive FVal
  | nan (sig : Bool)
  | inf (neg : Bool)
  | fin (neg : Bool) (m : Nat) (e : Int)
  deriving DecidableEq, Repr

/-- The value of a code. -/
def Fmt.unpack (f : Fmt) (w : Nat) : FVal :=
  let neg := w / f.signBit % 2 == 1
  let ex := w / 2 ^ f.fb % 2 ^ f.eb
  let fr := w % 2 ^ f.fb
  if ex = 2 ^ f.eb - 1 then (if fr = 0 then .inf neg else .nan (fr < 2 ^ (f.fb - 1)))
  else if ex = 0 then .fin neg fr (1 - f.bias - f.fb)
  else .fin neg (fr + 2 ^ f.fb) (ex - f.bias - f.fb)

/-- A code with its sign. -/
def Fmt.signed (f : Fmt) (neg : Bool) (mag : Nat) : Nat := if neg then f.signBit + mag else mag

/-- Is the code a subnormal of its format? -/
def Fmt.isSub (f : Fmt) (w : Nat) : Bool :=
  w / 2 ^ f.fb % 2 ^ f.eb == 0 && w % 2 ^ f.fb != 0

/-- The input of a governed operation: under FTZ a subnormal is a zero of its sign (R39). -/
def Fmt.input (f : Fmt) (ftz : Bool) (w : Nat) : FVal :=
  if ftz && f.isSub w then .fin (w / f.signBit % 2 == 1) 0 0 else f.unpack w

/-- Whether a magnitude q with remainder r of d is rounded away from zero (R39). -/
def roundUp (rm : Rm) (neg : Bool) (q r d : Nat) : Bool :=
  match rm with
  | .rne => d < 2 * r || (2 * r == d && q % 2 == 1)
  | .rz => false
  | .rup => !neg && r != 0
  | .rdn => neg && r != 0

/-- m × 2^e rounded to a multiple of 2^q: the multiple and whether it is inexact. -/
def roundAt (rm : Rm) (neg : Bool) (m : Nat) (e q : Int) : Nat × Bool :=
  if q ≤ e then (m * 2 ^ (e - q).toNat, false)
  else
    let d := 2 ^ (q - e).toNat
    let k := m / d
    let r := m % d
    (k + (if roundUp rm neg k r d then 1 else 0), r != 0)

/-- The result on overflow (R39). -/
def Fmt.overflow (f : Fmt) (rm : Rm) (neg : Bool) : Nat :=
  let toInf := match rm with | .rne => true | .rz => false | .rup => !neg | .rdn => neg
  f.signed neg (if toInf then f.inf else f.maxMag)

/-- One rounding of (−1)^neg × m × 2^e to a format, gradual underflow, with the flags of R40; under
FTZ a subnormal result becomes a zero of its sign with UF and NX (R39). Tininess is judged after
rounding with the exponent range unbounded, as IEEE 754-2019 has it (log 17). -/
def Fmt.round (f : Fmt) (c : FpCtl) (neg : Bool) (m : Nat) (e : Int) : Nat × Fl :=
  if m = 0 then (f.signed neg 0, 0) else
  let top := (m.log2 : Int) + e
  let emin := 1 - f.bias
  let q := max top emin - f.fb
  let r := roundAt c.rm neg m e q
  let code := ((q + f.fb + f.bias - 1) * 2 ^ f.fb).toNat + r.1
  if f.inf ≤ code then (f.overflow c.rm neg, flOF ||| flNX)
  else
    let u := roundAt c.rm neg m e (top - f.fb)
    let tiny := decide (top < emin) && decide (u.1 < 2 ^ (f.fb + 1) ∨ top + 1 < emin)
    let sub := decide (code < 2 ^ f.fb)
    if c.ftz && sub && code != 0 then (f.signed neg 0, flUF ||| flNX)
    else if c.ftz && code == 0 then (f.signed neg 0, flUF ||| flNX)
    else (f.signed neg code, flagIf r.2 flNX ||| flagIf (r.2 && tiny) flUF)

/-- One rounding of an integer times a power of two; an exact zero is +0. -/
def Fmt.roundInt (f : Fmt) (c : FpCtl) (v : Int) (e : Int) : Nat × Fl :=
  f.round c (v < 0) v.natAbs e

/-- NV for a signalling NaN. -/
def FVal.sig : FVal → Fl
  | .nan true => flNV
  | _ => 0

def FVal.isNan : FVal → Bool
  | .nan _ => true
  | _ => false

def FVal.neg : FVal → FVal
  | .nan s => .nan s
  | .inf n => .inf (!n)
  | .fin n m e => .fin (!n) m e

/-- A finite value as a signed integer times 2^e0. -/
def scaleTo (neg : Bool) (m : Nat) (e e0 : Int) : Int :=
  (if neg then -1 else 1) * ((m * 2 ^ (e - e0).toNat : Nat) : Int)

/-- The exact sum of two values, rounded once: the IEEE rules for zeros and infinities. -/
def Fmt.addVals (f : Fmt) (c : FpCtl) (a b : FVal) : Nat × Fl :=
  let s := a.sig ||| b.sig
  match a, b with
  | .nan _, _ => (f.nan, s)
  | _, .nan _ => (f.nan, s)
  | .inf x, .inf y => if x == y then (f.signed x f.inf, 0) else (f.nan, flNV)
  | .inf x, .fin _ _ _ => (f.signed x f.inf, 0)
  | .fin _ _ _, .inf y => (f.signed y f.inf, 0)
  | .fin x m e, .fin y n g =>
    let e0 := min e g
    let v := scaleTo x m e e0 + scaleTo y n g e0
    if v = 0 then
      (f.signed (if x == y then x else c.rm == .rdn) 0, 0)
    else f.roundInt c v e0

/-- The exact product of two values (no rounding): its NaN, infinity or finite form, and flags. -/
def mulVals (a b : FVal) : FVal × Fl :=
  let s := a.sig ||| b.sig
  match a, b with
  | .nan _, _ => (.nan false, s)
  | _, .nan _ => (.nan false, s)
  | .inf x, .inf y => (.inf (x != y), 0)
  | .inf x, .fin y m _ => if m = 0 then (.nan false, flNV) else (.inf (x != y), 0)
  | .fin x m _, .inf y => if m = 0 then (.nan false, flNV) else (.inf (x != y), 0)
  | .fin x m e, .fin y n g => (.fin (x != y) (m * n) (e + g), 0)

/-- A value rounded once. -/
def Fmt.ofVal (f : Fmt) (c : FpCtl) : FVal → Nat × Fl
  | .nan s => (f.nan, flagIf s flNV)
  | .inf n => (f.signed n f.inf, 0)
  | .fin n m e => f.round c n m e

/-! ### FP32 operations on elements (R39, R131, R147, R148) -/

/-- A 32-bit result with its flags. -/
abbrev FRes := HWord × Fl

def fres (r : Nat × Fl) : FRes := (BitVec.ofNat 32 r.1, r.2)

/-- The canonical NaN of FP32 (R38). -/
def canonNan : HWord := 0x7FC00000

def fin32 (c : FpCtl) (w : HWord) : FVal := f32.input c.ftz w.toNat

def fAdd (c : FpCtl) (a b : HWord) : FRes := fres (f32.addVals c (fin32 c a) (fin32 c b))
def fSub (c : FpCtl) (a b : HWord) : FRes := fres (f32.addVals c (fin32 c a) (fin32 c b).neg)

def fMul (c : FpCtl) (a b : HWord) : FRes :=
  let p := mulVals (fin32 c a) (fin32 c b)
  let r := f32.ofVal c p.1
  (BitVec.ofNat 32 r.1, r.2 ||| p.2)

/-- a × b + d with one rounding (R39). Whether 0 × ∞ + a quiet NaN sets NV is left open by
IEEE 754-2019: it is the free value `Config.fmaInvalid` (log 17). -/
def fFma (c : FpCtl) (a b d : HWord) : FRes :=
  let p := mulVals (fin32 c a) (fin32 c b)
  let z := fin32 c d
  let r := f32.addVals c p.1 z
  let nv := if p.2 == flNV && z.isNan && (fin32 c a).sig == 0 && (fin32 c b).sig == 0
    then flagIf Config.fmaInvalid flNV else p.2
  (BitVec.ofNat 32 r.1, r.2 ||| nv)

/-- a < b on values that are not NaN, −0 below +0 when `zeros` is true. -/
def FVal.lt (zeros : Bool) : FVal → FVal → Bool
  | .inf x, .inf y => x && !y
  | .inf x, .fin _ _ _ => x
  | .fin _ _ _, .inf y => !y
  | .fin x m e, .fin y n g =>
    let e0 := min e g
    let u := scaleTo x m e e0
    let v := scaleTo y n g e0
    if u = 0 ∧ v = 0 then zeros && x && !y else u < v
  | _, _ => false

def FVal.eq (a b : FVal) : Bool :=
  !a.isNan && !b.isNan && !(FVal.lt false a b) && !(FVal.lt false b a)

/-- A comparison predicate of FP values: quiet, NV for a signalling NaN (R38). -/
def fCmp (c : FpCtl) (p : FPred) (a b : HWord) : Bool × Fl :=
  let x := fin32 c a
  let y := fin32 c b
  let un := x.isNan || y.isNan
  let r := match p with
    | .eq => !un && FVal.eq x y
    | .lt => !un && FVal.lt false x y
    | .le => !un && (FVal.lt false x y || FVal.eq x y)
    | .un => un
    | .ne => un || !(FVal.eq x y)
  (r, x.sig ||| y.sig)

/-- The code an operand contributes to a minimum or maximum: a subnormal read under FTZ is zero. -/
def fRead (c : FpCtl) (w : HWord) : HWord :=
  if c.ftz && f32.isSub w.toNat then w &&& 0x80000000 else w

/-- minimumNumber and maximumNumber with −0 below +0 (R38, R147). -/
def fMinMax (mx : Bool) (c : FpCtl) (a b : HWord) : FRes :=
  let x := fin32 c a
  let y := fin32 c b
  let s := x.sig ||| y.sig
  if x.isNan && y.isNan then (canonNan, s)
  else if x.isNan then (fRead c b, s)
  else if y.isNan then (fRead c a, s)
  else
    let less := FVal.lt true x y
    (if less != mx then fRead c a else fRead c b, s)

/-- VABS.F and VNEG.F: the sign bit only, but a NaN gives the canonical NaN (R148). -/
def fSign (c : FpCtl) (g : HWord → HWord) (a : HWord) : FRes :=
  let x := fin32 c a
  if x.isNan then (canonNan, x.sig) else (g (fRead c a), 0)

/-! ### Conversions (R54 to R57) -/

/-- A value rounded to an integer in a mode, and whether it is inexact. -/
def toInt (rm : Rm) (neg : Bool) (m : Nat) (e : Int) : Int × Bool :=
  let r := roundAt rm neg m e 0
  ((if neg then -1 else 1) * (r.1 : Int), r.2)

/-- FP32 to a two's complement integer of `n` bits (R57). -/
def f32ToInt (c : FpCtl) (n : Nat) (w : HWord) : Int × Fl :=
  let hi : Int := 2 ^ (n - 1) - 1
  let lo : Int := -(2 ^ (n - 1))
  match fin32 c w with
  | .nan _ => (0, flCVN)
  | .inf neg => (if neg then lo else hi, flSAT ||| flNX)
  | .fin neg m e =>
    let r := toInt c.rm neg m e
    if r.1 > hi then (hi, flSAT ||| flNX)
    else if r.1 < lo then (lo, flSAT ||| flNX)
    else (r.1, flagIf r.2 flNX)

/-- An integer to FP32 (R54). -/
def intToF32 (c : FpCtl) (v : Int) : FRes := fres (f32.roundInt c v 0)

/-- FP32 to FP16 or BF16 (R56): finite overflow and infinities become the largest finite value. -/
def f32ToSmall (f : Fmt) (c : FpCtl) (w : HWord) : FRes :=
  match fin32 c w with
  | .nan s => (BitVec.ofNat 32 f.nan, flagIf s flNV)
  | .inf neg => (BitVec.ofNat 32 (f.signed neg f.maxMag), flSAT ||| flNX)
  | .fin neg m e =>
    let r := f.round c neg m e
    if r.2 &&& flOF != 0 then (BitVec.ofNat 32 (f.signed neg f.maxMag), flSAT ||| flNX)
    else (BitVec.ofNat 32 r.1, r.2)

/-- FP16 or BF16 to FP32, exact (R54); FTZ reads a subnormal source as zero. -/
def smallToF32 (f : Fmt) (c : FpCtl) (w : HWord) : FRes :=
  fres (f32.ofVal c (f.input c.ftz (w.toNat % 65536)))

/-! ### Integers (R41 to R43) -/

/-- DIV (R42). -/
def divS (a b : Word) : Word :=
  if b = 0 then BitVec.allOnes 64 else BitVec.ofInt 64 (Int.tdiv a.toInt b.toInt)

/-- DIVU (R42). -/
def divU (a b : Word) : Word := if b = 0 then BitVec.allOnes 64 else BitVec.ofNat 64 (a.toNat / b.toNat)

/-- REM (R42). -/
def remS (a b : Word) : Word := if b = 0 then a else BitVec.ofInt 64 (Int.tmod a.toInt b.toInt)

/-- BFX (R43). -/
def bfx (s : Word) (o w : Nat) : Word :=
  if w = 0 then 0 else BitVec.ofNat 64 (s.toNat / 2 ^ o % 2 ^ (min (o + w) 64 - o))

/-- BFI (R43). -/
def bfi (d s : Word) (o w : Nat) : Word :=
  if w = 0 then d
  else
    let f : Word := BitVec.ofNat 64 ((2 ^ (min (o + w) 64 - o) - 1) * 2 ^ o)
    (d &&& ~~~f) ||| ((s <<< o) &&& f)

/-- Leading zeros, 0 to 64 (R130). -/
def clz (a : Word) : Word := if a = 0 then 64 else BitVec.ofNat 64 (63 - a.toNat.log2)

/-- Count of 1 bits (R130). -/
def popc (a : Word) : Word := BitVec.ofNat 64 (((List.range 64).filter fun i => a.getLsbD i).length)

/-! ### RB records (R44, R45, R54, R55) -/

/-- The width of an element code. -/
def recBits : RecWidth → Nat
  | .rb8 => 8 | .rb6 => 6 | .rb4 => 4

/-- The bytes of a record (R44). -/
def recBytes (w : RecWidth) : Nat := 1 + 4 * recBits w

/-- The largest code. -/
def recMax (w : RecWidth) : Nat := 2 ^ (recBits w - 1) - 1

/-- A field of `n` bits read as two's complement. -/
def sextN (v n : Nat) : Int := if v % 2 ^ n < 2 ^ (n - 1) then (v % 2 ^ n : Nat) else (v % 2 ^ n : Nat) - (2 ^ n : Nat)

/-- Element i of a record given as a number: its signed code, none for NaR (R44, R45). -/
def recElem (w : RecWidth) (r : Nat) (i : Nat) : Option Int :=
  if r % 256 = 255 then none
  else
    let q := sextN (r / 2 ^ (8 + recBits w * i)) (recBits w)
    if q = -(2 ^ (recBits w - 1) : Nat) then none else some q

/-- A record element as FP32 (R54): a NaR gives the canonical NaN and MNAR. -/
def widen (c : FpCtl) (w : RecWidth) (r : Nat) (i : Nat) : FRes × Bool :=
  match recElem w r i with
  | none => ((canonNan, 0), true)
  | some q => (fres (f32.roundInt c q ((r % 256 : Nat) - 127)), false)

/-- Is |v| ≤ maxcode × 2^(s − 127)? An infinity never is. -/
def fitsScale (w : RecWidth) (s : Nat) : FVal → Bool
  | .nan _ => true
  | .inf _ => false
  | .fin _ m e =>
    let x : Int := (s : Int) - 127
    let e0 := min e x
    m * 2 ^ (e - e0).toNat ≤ recMax w * 2 ^ (x - e0).toNat

/-- The least scale from `s` on, `fuel` of them, that every value fits; 254 if none (R55). -/
def leastScale (w : RecWidth) (vs : List FVal) : Nat → Nat → Nat
  | _, 0 => 254
  | s, n + 1 => if vs.all (fitsScale w s) then s else leastScale w vs (s + 1) n

/-- The code of one element under a scale with its flags (R55). -/
def narrowElem (w : RecWidth) (s : Nat) (v : FVal) : Nat × Fl :=
  let mx : Int := recMax w
  let code (q : Int) : Nat := (q % (2 ^ recBits w : Nat)).toNat
  match v with
  | .nan sg => (2 ^ (recBits w - 1), flagIf sg flNV)
  | .inf neg => (code (if neg then -mx else mx), flSAT)
  | .fin neg m e =>
    let r := toInt .rne neg m (e - ((s : Int) - 127))
    if r.1 > mx then (code mx, flSAT ||| flagIf r.2 flNX)
    else if r.1 < -mx then (code (-mx), flSAT ||| flagIf r.2 flNX)
    else (code r.1, flagIf r.2 flNX)

/-- The record of 32 FP32 values as a number, with its flags (R55). -/
def narrow (c : FpCtl) (w : RecWidth) (vs : List HWord) : Nat × Fl :=
  let xs := vs.map (fin32 c)
  let s := if xs.all FVal.isNan then 0 else leastScale w xs 0 255
  let es := xs.map (narrowElem w s)
  (s + 256 * (es.foldr (fun e acc => e.1 + 2 ^ recBits w * acc) 0), es.foldl (fun f e => f ||| e.2) 0)

/-! ### Residues (R47, R48, R52) -/

/-- The residue triple of an integer in the layout of R19. -/
def toRes (x : Int) : HWord :=
  BitVec.ofNat 32 ((x % 256).toNat + 256 * (x % 255).toNat + 65536 * (x % 257).toNat)

/-- Is a code a valid triple (R52)? -/
def resValid (w : HWord) : Bool :=
  let n := w.toNat
  n / 2 ^ 25 == 0 && decide (n / 256 % 256 ≤ 254) && decide (n / 65536 % 512 ≤ 256)

/-- The canonical X-mode NaR (R52). -/
def resNar : HWord := 0x0000FF00

/-- The integer of a triple in mixed radix (R48). -/
def fromRes (w : HWord) : Int :=
  let c256 : Int := (w.toNat % 256 : Nat)
  let c255 : Int := (w.toNat / 256 % 256 : Nat)
  let c257 : Int := (w.toNat / 65536 % 512 : Nat)
  let v2 := (c255 - c256) % 255
  let v3 := ((c257 - c256 + v2) * 129) % 257
  let x := c256 + 256 * v2 + 65280 * v3
  if x ≥ 8388480 then x - 16776960 else x

/-- The componentwise sum of two triples (R51). -/
def resAdd (a b : HWord) : HWord :=
  BitVec.ofNat 32 ((a.toNat % 256 + b.toNat % 256) % 256
    + 256 * ((a.toNat / 256 % 256 + b.toNat / 256 % 256) % 255)
    + 65536 * ((a.toNat / 65536 % 512 + b.toNat / 65536 % 512) % 257))

/-! ### CRC32C (R217) -/

/-- One bit of the reflected Castagnoli polynomial. -/
def crcBit (c : BitVec 32) : BitVec 32 :=
  if c.getLsbD 0 then (c >>> 1) ^^^ 0x82F63B78 else c >>> 1

def crcByte (c : BitVec 32) (b : Byte) : BitVec 32 :=
  let x := c ^^^ b.setWidth 32
  crcBit (crcBit (crcBit (crcBit (crcBit (crcBit (crcBit (crcBit x)))))))

/-- CRC32C of bytes. -/
def crc32c (bs : List Byte) : BitVec 32 := (bs.foldl crcByte 0xFFFFFFFF) ^^^ 0xFFFFFFFF

end Sys2Proof.Machine
end

