-- ==== Sys2Proof/Machine/Special.lean ====
section
/-! DEFINITION. The special functions (R59, R159): exact points and edges as the rule states them; elsewhere a free value
held to the rule's bound and to monotonicity (log 5). -/

namespace Sys2Proof.Machine

/-! ### Exact points (R59) -/

/-- A value of 2^k as FP32, none where it is not representable. -/
def pow2f (k : Int) : Option Nat :=
  if k > 127 then none
  else if k ≥ -126 then some (((k + 127) * 2 ^ 23).toNat)
  else if k ≥ -149 then some (2 ^ (k + 149).toNat)
  else none

/-- The exponent k of a finite value ±2^k. -/
def isPow2 (m : Nat) (e : Int) : Option Int :=
  if m ≠ 0 ∧ m = 2 ^ m.log2 then some ((m.log2 : Int) + e) else none

/-- The integer of a finite value that is one. -/
def isInteger (neg : Bool) (m : Nat) (e : Int) : Option Int :=
  let r := toInt .rz neg m e
  if r.2 then none else some r.1

/-- A magnitude code limited to [lo, hi]. -/
def clampN (lo hi v : Nat) : Nat := if v < lo then lo else if hi < v then hi else v

/-- Flags of a result magnitude of VEXP2, VEXP and VRCP that overflowed or underflowed: R59 names them for VEXP2 and VEXP;
VRCP is held to the same, VTANH and VSIGM set no UF (log 5). -/
def magFlags (mag : Nat) : Fl := flagIf (mag == f32.inf) flOF ||| flagIf (mag < 2 ^ 23) flUF

/-! ### The exact results, in fixed point -/

/-- Bits behind the point. -/
def fixP : Nat := 640

/-- ln 2 in fixed point. -/
def fixLn2 : Nat :=
  3162442850577000144542819255265044123884198300717798677536341180773118696995660441338367561063358767323571958122307070903190084685977847936741854327993944726832264493303953239866611699627604094

/-- e^r by its series, in Horner's form: `n` terms, from the term `k` on. -/
def expSeries (r : Nat) : Nat → Nat → Nat
  | 0, _ => 2 ^ fixP
  | n + 1, k => 2 ^ fixP + r * expSeries r n (k + 1) / 2 ^ fixP / k

/-- e^X of a fixed-point X, as a number and the power of two it is scaled by. -/
def expVal (x : Int) : Nat × Int :=
  (expSeries (x % (fixLn2 : Int)).toNat 120 1, x / (fixLn2 : Int) - (fixP : Int))

/-- 2^X of a fixed-point X. -/
def exp2Val (x : Int) : Nat × Int :=
  (expSeries ((x % (2 ^ fixP : Int)).toNat * fixLn2 / 2 ^ fixP) 120 1, x / (2 ^ fixP : Int) - (fixP : Int))

/-- A scaled number in fixed point. -/
def toFix (v : Nat × Int) : Nat :=
  let k := v.2 + fixP
  if 0 ≤ k then v.1 * 2 ^ k.toNat else v.1 / 2 ^ (-k).toNat

/-- The series of artanh at z, `n` terms from the power `k` on; z² is given beside the power of z. -/
def artanhSeries (z2 : Nat) : Nat → Int → Nat → Int
  | 0, _, _ => 0
  | n + 1, p, k => p / (k : Int) + artanhSeries z2 n (p * (z2 : Int) / (2 ^ fixP : Int)) (k + 2)

/-- ln of m × 2^e in fixed point: 2^a × t with t from 2/3 to 4/3, and ln t = 2 artanh ((t − 1) / (t + 1)). -/
def lnFix (m : Nat) (e : Int) : Int :=
  let l := if 4 * 2 ^ m.log2 ≤ 3 * m then m.log2 + 1 else m.log2
  let z := ((m : Int) - 2 ^ l) * 2 ^ fixP / ((m : Int) + 2 ^ l)
  (e + l) * (fixLn2 : Int) + 2 * artanhSeries ((z * z / (2 ^ fixP : Int)).toNat) 150 z 1

/-- The least distance of VTANH and VSIGM from 1 that is told from others: below it no code of FP32 lies between. -/
def fixGap : Nat := 2 ^ 20

/-- The magnitude of an exact result as a number and its scale, right to 2^16 units of that number; 0 stands for a
result below 2^−190 and 2^200 for one above every finite value. -/
def specialVal (fn : Fin 8) (neg : Bool) (m : Nat) (e : Int) : Nat × Int :=
  let big := decide (8 ≤ (m.log2 : Int) + e)
  let mag : Nat := if big then 0 else m * 2 ^ (e + fixP).toNat
  let x : Int := if neg then -(mag : Int) else mag
  let one : Nat := 2 ^ fixP
  match fn with
  | 0 => if big then (if neg then (0, 0) else (1, 200)) else exp2Val x
  | 2 => if big then (if neg then (0, 0) else (1, 200)) else expVal x
  | 1 => ((lnFix m e * (one : Int) / (fixLn2 : Int)).natAbs, -(fixP : Int))
  | 3 => ((lnFix m e).natAbs, -(fixP : Int))
  | 4 => (2 ^ (m.log2 + fixP) / m, -((m.log2 + fixP : Nat) : Int) - e)
  | 5 =>
    let m' := if e % 2 = 0 then m else 2 * m
    let e' := if e % 2 = 0 then e else e - 1
    let k := m'.log2 + fixP
    (Nat.sqrt (2 ^ (2 * k) / m'), -(k : Int) - e' / 2)
  | 6 =>
    let z := if big then fixGap else max fixGap (toFix (expVal (-2 * (mag : Int))))
    ((one - z) * one / (one + z), -(fixP : Int))
  | _ =>
    let z := if big then 0 else toFix (expVal (-(mag : Int)))
    if neg then (z * one / (one + z), -(fixP : Int)) else (one * one / (one + max fixGap z), -(fixP : Int))

/-! ### The bound (R59) -/

/-- The bound of each function, in ulp. -/
def ulpBound : Fin 8 → Nat
  | 0 | 1 | 4 | 5 => 2
  | _ => 3

/-- The least and the greatest magnitude code within `k` ulp of an exact magnitude; the code of ∞ stands for 2^128. -/
def ulpRange (k : Nat) (v : Nat × Int) : Nat × Nat :=
  if v.1 = 0 then (0, k)
  else
    let up := v.1 + 2 ^ 16
    let dn := v.1 - 2 ^ 16
    let u := k * 2 ^ (max ((v.1.log2 : Int) + v.2 - 23) (-149) - v.2).toNat
    let hi := dn + u
    (if up ≤ u then 0 else (f32.round ⟨.rup, false⟩ false (up - u) v.2).1,
     if 128 ≤ (hi.log2 : Int) + v.2 then f32.inf else (f32.round ⟨.rz, false⟩ false hi v.2).1)

/-! ### Monotonicity (R59) -/

/-- A non-decreasing free function of a key of `b` bits with values from `lo` to `hi`: the number at a node of the tree
says where the values of its lower half end. -/
def monoFree (g : Nat → Nat) : Nat → Nat → Nat → Nat → Nat → Nat
  | 0, node, lo, hi, _ => lo + g node % (hi - lo + 1)
  | b + 1, node, lo, hi, key =>
    let mid := lo + g node % (hi - lo + 1)
    if key / 2 ^ b % 2 = 0 then monoFree g b (2 * node) lo mid key else monoFree g b (2 * node + 1) mid hi key

/-- The place of an input in the order in which the magnitude of the result does not fall: signed for VEXP2, VEXP and VSIGM;
by the distance from 1 for the logarithms; falling for VRCP and VRSQ; by magnitude for VTANH. -/
def specialKey (fn : Fin 8) (neg : Bool) (w : Nat) : Nat :=
  let one := 127 * 2 ^ 23
  match fn with
  | 0 | 2 | 7 => if neg then 2 ^ 31 - w else 2 ^ 31 + w
  | 1 | 3 => if w < one then one - w else w - one
  | 4 | 5 => 2 ^ 31 - w
  | 6 => w

/-- The input at a place of that order, on the side of 1 given for a logarithm. -/
def keyInput (fn : Fin 8) (below : Bool) (key : Nat) : Bool × Nat :=
  let one := 127 * 2 ^ 23
  match fn with
  | 0 | 2 | 7 => if key < 2 ^ 31 then (true, 2 ^ 31 - key) else (false, key - 2 ^ 31)
  | 1 | 3 => (false, if below then one - key else one + key)
  | 4 | 5 => (false, 2 ^ 31 - key)
  | 6 => (false, key)

/-- The exact magnitude at a place of the order. -/
def valAt (fn : Fin 8) (below : Bool) (key : Nat) : Nat × Int :=
  let i := keyInput fn below key
  if i.2 = 0 then match fn with
    | 6 => (0, 0)
    | 7 => (1, -1)
    | 4 | 5 => (1, 200)
    | _ => (1, 0)
  else if f32.inf ≤ i.2 then match fn with
    | 4 | 5 => (0, 0)
    | 6 => (1, 0)
    | 7 => if i.1 then (0, 0) else (1, 0)
    | _ => if i.1 then (0, 0) else (1, 200)
  else match f32.input false i.2 with
    | .fin _ m e => specialVal fn i.1 m e
    | _ => (0, 0)

/-- The exponent of a magnitude. -/
def expOf (v : Nat × Int) : Int := if v.1 = 0 then -1000 else (v.1.log2 : Int) + v.2

/-- The greatest key below `key` that a test which holds of no key above one it fails admits, from the bits down. -/
def lastBelow (p : Nat → Bool) (key : Nat) : Nat → Nat → Nat
  | 0, acc => acc
  | b + 1, acc => if acc + 2 ^ b < key ∧ p (acc + 2 ^ b) then lastBelow p key b (acc + 2 ^ b) else lastBelow p key b acc

/-- The least code that the bound and monotonicity admit: in the binade above a power of two an ulp is twice as long, so
there the bound of the last input below the power of two may be the greater one. -/
def leastCode (fn : Fin 8) (below : Bool) (key : Nat) (v : Nat × Int) : Nat :=
  let l := (ulpRange (ulpBound fn) v).1
  let e := expOf v
  if e < -125 ∨ f32.inf ≤ l ∨ l / 2 ^ 23 = (e + 127).toNat then l
  else max l (ulpRange (ulpBound fn) (valAt fn below (lastBelow (fun k => decide (expOf (valAt fn below k) < e)) key 32 0))).1

/-- A free magnitude: within the bound, monotone, and between `lo` and `hi`, which the exact points beside the input give. -/
def freeMag (fn : Fin 8) (neg : Bool) (w m : Nat) (e : Int) (lo hi : Nat) : Nat :=
  let v := specialVal fn neg m e
  if 128 ≤ expOf v then f32.inf
  else
    let below := decide (w < 127 * 2 ^ 23)
    let key := specialKey fn neg w
    let side := match fn with
      | 1 | 3 => below
      | 4 | 5 => neg
      | _ => false
    clampN (max lo (leastCode fn below key v)) (min hi (ulpRange (ulpBound fn) v).2)
      (monoFree (Config.special fn) 32 (if side then 3 else 2) 0 f32.inf key)

/-- The code of 2^k as a limit: 0 below the least subnormal, ∞ above every finite value. -/
def pow2Code (k : Int) : Nat := if k > 127 then f32.inf else (pow2f k).getD 0

/-- The magnitude of an integer as a code. -/
def intCode (k : Int) : Nat := (f32.round ⟨.rne, false⟩ false k.natAbs 0).1

/-! ### The functions -/

/-- The result of a special function on an input already read under FTZ, before FTZ on the result. -/
def specialCore (fn : Fin 8) (w0 : Nat) (x : FVal) : Nat × Fl :=
  let one := 127 * 2 ^ 23
  let half := 126 * 2 ^ 23
  let w := w0 % f32.signBit
  match x with
  | .nan s => (f32.nan, flagIf s flNV)
  | .inf neg =>
    match fn with
    | 0 | 2 => if neg then (0, 0) else (f32.inf, 0)
    | 1 | 3 => if neg then (f32.nan, flNV) else (f32.inf, 0)
    | 4 => (f32.signed neg 0, 0)
    | 5 => if neg then (f32.nan, flNV) else (0, 0)
    | 6 => (f32.signed neg one, 0)
    | _ => if neg then (0, 0) else (one, 0)
  | .fin neg m e =>
    if m = 0 then
      match fn with
      | 0 | 2 => (one, 0)
      | 1 | 3 => (f32.signed true f32.inf, flDZ)
      | 4 | 5 => (f32.signed neg f32.inf, flDZ)
      | 6 => (f32.signed neg 0, 0)
      | _ => (half, 0)
    else
      let top : Int := (m.log2 : Int) + e
      match fn with
      | 0 =>
        let fl := if neg then -(toInt .rup false m e).1 else (toInt .rz false m e).1
        let ce := if neg then -(toInt .rz false m e).1 else (toInt .rup false m e).1
        let r := match (isInteger neg m e).bind pow2f with
          | some v => v
          | none => freeMag 0 neg w m e (pow2Code fl) (if ce < -149 then 1 else pow2Code ce)
        (r, magFlags r)
      | 2 =>
        let r := if neg then freeMag 2 true w m e 0 one else freeMag 2 false w m e one f32.inf
        (r, magFlags r)
      | 1 =>
        if neg then (f32.nan, flNV)
        else
          let below := decide (top < 0)
          match isPow2 m e with
          | some k => ((f32.roundInt ⟨.rne, false⟩ k 0).1, 0)
          | none =>
            let a := intCode top
            let b := intCode (top + 1)
            (f32.signed below (freeMag 1 false w m e (min a b) (max a b)), 0)
      | 3 =>
        if neg then (f32.nan, flNV)
        else if isPow2 m e = some 0 then (0, 0)
        else (f32.signed (decide (top < 0)) (freeMag 3 false w m e 0 f32.maxMag), 0)
      | 4 =>
        match isPow2 m e with
        | some k =>
          let r := if -127 ≤ k ∧ k ≤ 126 then pow2Code (-k) else freeMag 4 neg w m e 0 f32.inf
          (f32.signed neg r, magFlags r)
        | none =>
          let r := freeMag 4 neg w m e (if top + 1 ≤ 126 then pow2Code (-(top + 1)) else 0) (pow2Code (-(min top 126)))
          (f32.signed neg r, magFlags r)
      | 5 =>
        if neg then (f32.nan, flNV)
        else match isPow2 m e with
          | some k =>
            if k % 2 = 0 then (pow2Code (-(k / 2)), 0)
            else (freeMag 5 false w m e (pow2Code (-(k / 2) - 1)) (pow2Code (-(k / 2))), 0)
          | none => (freeMag 5 false w m e (pow2Code (-(top / 2) - 1)) (pow2Code (-(top / 2))), 0)
      | 6 => (f32.signed neg (freeMag 6 false w m e 0 one), 0)
      | _ => if neg then (freeMag 7 true w m e 0 half, 0) else (freeMag 7 false w m e half one, 0)

/-- A special function on an element (R59, R159): FTZ on the input and the result, never NX. -/
def special (fn : Fin 8) (c : FpCtl) (a : HWord) : FRes :=
  let r := specialCore fn (fRead c a).toNat (fin32 c a)
  if c.ftz && f32.isSub r.1 then (BitVec.ofNat 32 (r.1 / f32.signBit * f32.signBit), r.2 ||| flUF)
  else (BitVec.ofNat 32 r.1, r.2)

end Sys2Proof.Machine
end

