-- ==== Sys2Proof/Machine/Access.lean ====
section
/-! DEFINITION. Reaching into the state: tiles and contexts, time, the agenda, registers, results in
flight, class counters and the vector pool. -/

namespace Sys2Proof.Machine

/-! ### Tiles, contexts, partitions -/

def State.tile (s : State) (t : TileNo) : Tile := s.tiles[t]
def State.setTile (s : State) (t : TileNo) (x : Tile) : State := { s with tiles := s.tiles.set t x }
def State.onTile (s : State) (t : TileNo) (f : Tile → Tile) : State := s.setTile t (f (s.tile t))

def State.ctxAt (s : State) (t : TileNo) (c : CtxNo) : Ctx := (s.tile t).ctxs[c]
def Tile.setCtx (x : Tile) (c : CtxNo) (v : Ctx) : Tile := { x with ctxs := x.ctxs.set c v }
def State.setCtx (s : State) (t : TileNo) (c : CtxNo) (v : Ctx) : State :=
  s.onTile t fun x => x.setCtx c v
def State.onCtx (s : State) (t : TileNo) (c : CtxNo) (f : Ctx → Ctx) : State :=
  s.setCtx t c (f (s.ctxAt t c))

/-- The context for which the instruction meanings act. -/
def State.cx (s : State) : Ctx :=
  match s.cur with
  | .hw t c => s.ctxAt t c
  | .gondola => match s.prologue with
    | some p => p.ctx
    | none => Ctx.start

/-- The state with the acting context changed. -/
def State.onCx (s : State) (f : Ctx → Ctx) : State :=
  match s.cur with
  | .hw t c => s.onCtx t c f
  | .gondola => { s with prologue := s.prologue.map fun p => { p with ctx := f p.ctx } }

/-- The state with the acting context's registers changed. -/
def State.onRegs (s : State) (f : Regs → Regs) : State := s.onCx fun x => { x with regs := f x.regs }

/-- The tile of the acting context; the prologue engine has none and names T0. -/
def State.curTile (s : State) : TileNo :=
  match s.cur with
  | .hw t _ => t
  | .gondola => 0

def State.curCtx (s : State) : CtxNo :=
  match s.cur with
  | .hw _ c => c
  | .gondola => 0

/-- The clock count of the acting context: CYCLE, or the prologue engine's nanoseconds. -/
def State.clock (s : State) : Nat :=
  match s.cur with
  | .hw t _ => (s.tile t).cycle
  | .gondola => match s.prologue with
    | some p => p.cycle
    | none => 0

/-- The cluster of a tile (R1). -/
def clusterOf (t : TileNo) : ClusterNo := ⟨t.val / 4, by omega⟩

/-- The partition of a tile. -/
def State.partOf (s : State) (t : TileNo) : Option PartNo := (s.clusters[clusterOf t]).part

/-- The partition the acting context belongs to; P0 stands in where none exists. -/
def State.curPart (s : State) : PartNo :=
  match s.cur with
  | .hw t _ => (s.partOf t).getD 0
  | .gondola => match s.prologue with
    | some p => p.part
    | none => 0

def State.part (s : State) (p : PartNo) : Partition := s.parts[p]
def State.onPart (s : State) (p : PartNo) (f : Partition → Partition) : State :=
  { s with parts := s.parts.set p (f s.parts[p]) }
def State.func (s : State) (f : FuncNo) : Func := s.funcs[f]
def State.onFunc (s : State) (f : FuncNo) (g : Func → Func) : State :=
  { s with funcs := s.funcs.set f (g s.funcs[f]) }
def State.onCluster (s : State) (k : ClusterNo) (g : Cluster → Cluster) : State :=
  { s with clusters := s.clusters.set k (g s.clusters[k]) }

/-- The VF's function number of a partition. -/
def State.funcOf (s : State) (p : PartNo) : FuncNo := ⟨(s.part p).vf.val + 1, by omega⟩

/-- A tile by number, if there is one (R1). -/
def tileOf (n : Nat) : Option TileNo := if h : n < 160 then some ⟨n, h⟩ else none

/-- All tiles, all contexts of a tile. -/
def allTiles : List TileNo := List.finRange 160
def allCtxs : List CtxNo := List.finRange 4

/-- The tiles of a partition in ascending order. -/
def State.tilesOf (s : State) (p : PartNo) : List TileNo :=
  allTiles.filter fun t => s.partOf t == some p

/-- CTXID (R29): partition, cluster, tile, context. -/
def State.ctxid (s : State) (t : TileNo) (c : CtxNo) : Word :=
  BitVec.ofNat 64 (((s.partOf t).getD 0).val * 2 ^ 24 + (clusterOf t).val * 2 ^ 16 + t.val * 2 ^ 8 + c.val)

/-! ### Time (R5, R29, R362; log 1) -/

/-- Ticks in a nanosecond. -/
def ticksPerNs : Nat := 252

/-- Nanoseconds in ticks. -/
def nanos (n : Nat) : Nat := n * ticksPerNs

/-- The length of a tile clock at a DVFS level, in ticks (R389). -/
def period (l : Fin 8) : Nat :=
  match l with
  | 0 => 840 | 1 => 560 | 2 => 420 | 3 => 360 | 4 => 315 | 5 => 280 | 6 => 240 | 7 => 210

/-- The length of a clock of a tile. -/
def State.tilePeriod (s : State) (t : TileNo) : Nat := period (s.clusters[clusterOf t]).level

/-- TIME: device time in nanoseconds (R29, R362). It ran `timeOff` at the tick `timeAt`, and slews by `slew`
parts per million since. DESIGN CHOICE (log 75): R5's count of 64 bits never decreases, and the manual does not say
what it does past 2^64; here it goes on without bound, CSR 0x008 and the events show its low 64 bits, and the deadline
of a TARM is compared with the whole count. -/
def State.time (s : State) : Nat :=
  s.timeOff + (s.now - s.timeAt) * (1000000 + s.slew).toNat / (ticksPerNs * 1000000)

/-- The next free delay, at most `hi` and at least `lo` ticks (log 16). -/
def State.delay (s : State) (lo hi : Nat) : Nat := lo + Config.delay s.freeCtr % (hi - lo + 1)

/-- The next free value of `w` bits (log 4). -/
def State.free (s : State) (w : Nat) : BitVec w := Config.freeBits w s.freeCtr

/-- The index of free values moved on. -/
def State.drew (s : State) : State := { s with freeCtr := s.freeCtr + 1 }

/-! ### The agenda -/

/-- Insert an event behind those of the same tick and order. -/
def insertDue (d : Due) : List Due → List Due
  | [] => [d]
  | e :: es => if d.at_ < e.at_ ∨ (d.at_ = e.at_ ∧ d.key < e.key) then d :: e :: es else e :: insertDue d es

/-- The order of a context's steps within a tick: by tile index, then context number (R127). -/
def orderKey (t : TileNo) (c : CtxNo) : Nat := t.val * 4 + c.val

/-- Schedule a step at a tick. -/
def State.schedAt (s : State) (at_ key : Nat) (ev : Instr) : State :=
  { s with agenda := insertDue ⟨at_, key, ev⟩ s.agenda }

/-- Schedule a step after a free delay between `lo` and `hi` ticks. -/
def State.sched (s : State) (lo hi key : Nat) (ev : Instr) : State :=
  (s.schedAt (s.now + s.delay lo hi) key ev).drew

/-- Drop scheduled steps. -/
def State.dropEvents (s : State) (p : Instr → Bool) : State :=
  { s with agenda := s.agenda.filter fun d => !(p d.ev) }

/-- A fresh identity. -/
def State.fresh (s : State) : State := { s with nextId := s.nextId + 1 }

/-! ### Scalar and address registers (R10, R11) -/

/-- A scalar register: X0 reads 0. -/
def Regs.x (g : Regs) (r : XReg) : Word := if r = 0 then 0 else g.xs[r]

/-- Write a scalar register: a write to X0 is discarded. -/
def Regs.setX (g : Regs) (r : XReg) (v : Word) : Regs :=
  if r = 0 then g else { g with xs := g.xs.set r v }

def State.x (s : State) (r : XReg) : Word := s.cx.regs.x r
def State.a (s : State) (r : AReg) : Word := s.cx.regs.as[r]

/-- A write of an address register that a slot of the bundle issued at a clock put in flight is not kept: a post-step
or a stride of the register lands in the same clock, and is the later of the two (R133, R73). -/
def Ctx.dropAmov (x : Ctx) (now : Nat) (a : AReg) : Ctx :=
  { x with flight := x.flight.filter fun f => !(f.dest == .a a && f.issued == now) }

/-- The running state after the post-step of an operand; the step is the one that stood at issue (R11). An AMOV of an
earlier slot into the register loses to it (R133). -/
def State.stepA (r s : State) (ps : Bool) (a : AReg) : State :=
  if ps then
    r.onCx fun x =>
      let y := x.dropAmov s.clock a
      { y with regs := { y.regs with as := y.regs.as.set a (y.regs.as[a] + (s.cx.regs.asteps[a]).signExtend 64) } }
  else r

/-! ### Masks (R22) -/

/-- The top entry of the mask stack. -/
def Regs.top (g : Regs) : Mask := g.ms[(Fin.ofNat 16 (g.msd.toNat - 1))]

/-! ### Results in flight (R71) -/

/-- Is nothing to be written: a result for X0, whose flags are discarded too (R10). -/
def Dest.isX0 : Dest → Bool
  | .x 0 => true
  | _ => false

/-- A result joins those in flight: issue order, and within a bundle the next to land first (R309's example and R403,
log 37). -/
def insertFlight (f : Flight) : List Flight → List Flight
  | [] => [f]
  | g :: gs => if g.issued = f.issued ∧ f.due < g.due then f :: g :: gs else g :: insertFlight f gs

/-- Put a result in flight; it lands `lat` clocks after this one. -/
def State.fly (s : State) (lat : Nat) (d : Dest) (val : Word) (vec : VImage) (mask : Mask) (fl : Fl)
    (mnar : Bool) : State :=
  if d.isX0 then s
  else
    let f : Flight := ⟨s.clock, s.clock + lat, s.slot.index, d, val, vec, mask, fl, mnar⟩
    s.onCx fun x => { x with flight := insertFlight f x.flight }

/-- A scalar result. -/
def State.flyX (s : State) (lat : Nat) (d : XReg) (v : Word) (fl : Fl := 0) : State :=
  s.fly lat (.x d) v 0 0 fl false

/-! ### The vector pool (R14 to R16, R146) -/

/-- The bits of an element. -/
def velem (v : VImage) (e : Nat) : HWord := v.extractLsb' (32 * e) 32

/-- An image from its 1,024 elements, element 0 first. -/
def vimage (es : List HWord) : VImage :=
  BitVec.ofNat 32768 (es.foldr (fun e acc => e.toNat + 2 ^ 32 * acc) 0)

/-- The mask of an image's bits that belong to a mask's elements. -/
def maskSpread (m : Mask) : VImage :=
  BitVec.ofNat 32768 ((List.range 1024).foldr
    (fun e acc => (if m.getLsbD e then 2 ^ 32 - 1 else 0) + 2 ^ 32 * acc) 0)

/-- Elements of `new` under a mask, of `old` elsewhere. -/
def vmerge (m : Mask) (old new : VImage) : VImage :=
  if m = BitVec.allOnes 1024 then new
  else (new &&& maskSpread m) ||| (old &&& ~~~maskSpread m)

/-- The value of a vector name of a context (R14): 0 when UNMAPPED, the home slot when SPILLED. -/
def Tile.vreg (x : Tile) (c : CtxNo) (n : VReg) : VImage :=
  match (x.ctxs[c]).regs.vmap[n] with
  | .unmapped => 0
  | .mapped pv => (x.pool[pv]).val
  | .spilled => Map.getD x.home (c.val * 32 + n.val) 0

/-- The value of a vector register of the acting context. -/
def State.v (s : State) (n : VReg) : VImage := (s.tile s.curTile).vreg s.curCtx n

/-- A result in flight that will write a physical register: one under an empty mask writes none. -/
def Flight.toPv (f : Flight) (pv : Fin 56) : Bool :=
  match f.dest with
  | .v _ q => q == pv && f.mask != 0
  | _ => false

/-- Is a write to a physical register in flight, a global load included? -/
def Tile.pvBusy (x : Tile) (pv : Fin 56) : Bool :=
  allCtxs.any fun c => (x.ctxs[c]).flight.any (fun f => f.toPv pv)
    || (x.ctxs[c]).gaccs.any (fun g => match g.ins.ins with
      | .gldv _ _ => g.pv == pv
      | _ => false)

/-- Is a physical register free: no name holds it and no write to it is in flight (R146)? -/
def Tile.pvFree (x : Tile) (pv : Fin 56) : Bool := (x.pool[pv]).owner.isNone && !x.pvBusy pv

/-- The free physical register that an allocation or a fill takes. DESIGN CHOICE (log 76): R16 says only that it is a
free one; the model takes the lowest, and by R16 that number decides between victims of the same age. -/
def Tile.freePv (x : Tile) : Option (Fin 56) := (List.finRange 56).find? x.pvFree

def Tile.onPreg (x : Tile) (pv : Fin 56) (f : PReg → PReg) : Tile :=
  { x with pool := x.pool.set pv (f x.pool[pv]) }

/-- Set the map state of a name. -/
def Tile.setName (x : Tile) (c : CtxNo) (n : VReg) (v : VName) : Tile :=
  let k := x.ctxs[c]
  x.setCtx c { k with regs := { k.regs with vmap := k.regs.vmap.set n v } }

/-- Free a name (R15): its physical register returns to the pool, its home slot is meaningless. -/
def Tile.freeName (x : Tile) (c : CtxNo) (n : VReg) : Tile :=
  match (x.ctxs[c]).regs.vmap[n] with
  | .unmapped => x
  | .mapped pv => (x.onPreg pv fun r => { r with owner := none }).setName c n .unmapped
  | .spilled => { x with home := Map.erase x.home (c.val * 32 + n.val) }.setName c n .unmapped

/-- The physical register a write to a name takes at issue (R16), none where a spill or a fill must
come first. A register taken afresh keeps the elements a masked write leaves as 0 (R14). -/
def Tile.allocName (x : Tile) (c : CtxNo) (n : VReg) : Option (Tile × Fin 56) :=
  match (x.ctxs[c]).regs.vmap[n] with
  | .mapped pv => some (x.onPreg pv fun r => { r with lastAcc := x.cycle }, pv)
  | .spilled => none
  | .unmapped =>
    match x.freePv with
    | none => none
    | some pv => some ((x.onPreg pv fun _ => ⟨some (c, n), 0, x.cycle, 0⟩).setName c n (.mapped pv), pv)

/-- Mark the physical register of a name as accessed now, and read by an operation that takes `lat`
clocks (R16). -/
def Tile.touchName (x : Tile) (c : CtxNo) (n : VReg) (lat : Nat) : Tile :=
  match (x.ctxs[c]).regs.vmap[n] with
  | .mapped pv => x.onPreg pv fun r => { r with lastAcc := x.cycle, inUse := max r.inUse (x.cycle + lat) }
  | _ => x

/-- The values of the MAPPED and SPILLED names of a context. -/
def Tile.namedVals (x : Tile) (c : CtxNo) : List (VReg × VImage) :=
  (List.finRange 32).filterMap fun n =>
    match (x.ctxs[c]).regs.vmap[n] with
    | .unmapped => none
    | _ => some (n, x.vreg c n)

/-- Every name of a context freed (R15). -/
def Tile.freeNames (x : Tile) (c : CtxNo) : Tile := (List.finRange 32).foldl (fun y n => y.freeName c n) x

/-! ### The outcome of trying to issue (R71 to R75) -/

/-- What one slot's instruction meets at a clock: a precise trap, a block, a stall, or its
effect on the running state, none where the effect finds no room (a counter at its maximum). -/
inductive Issue
  | trap (c : Cause)
  | block
  | stall
  | ok (eff : State → Option State)

/-- The effect of an instruction that always finds room. -/
def Issue.done (f : State → State) : Issue := .ok fun s => some (f s)

/-- A precise check: trap unless it holds. -/
def Issue.check (ok : Bool) (c : Cause) (k : Issue) : Issue := if ok then k else .trap c

/-! ### Class counters (R27) -/

def State.addLd (s : State) : Option State :=
  if s.cx.regs.ld < 63 then some (s.onRegs fun g => { g with ld := g.ld + 1 }) else none
def State.addSt (s : State) : Option State :=
  if s.cx.regs.st < 63 then some (s.onRegs fun g => { g with st := g.st + 1 }) else none
def State.addCp (s : State) : Option State :=
  if s.cx.regs.cp < 31 then some (s.onRegs fun g => { g with cp := g.cp + 1 }) else none
def State.addTo (s : State) : Option State :=
  if s.cx.regs.tok < 15 then some (s.onRegs fun g => { g with tok := g.tok + 1 }) else none

/-- CP falls for the task that raised it; a context that runs another task is left alone (R117). -/
def State.dropCp (s : State) (t : TileNo) (c : CtxNo) (tid : Nat) : State :=
  s.onCtx t c fun x =>
    if (x.task.map (·.tid)) == some tid then { x with regs := { x.regs with cp := x.regs.cp - 1 } } else x

/-- Xd written on return, with no interlock, for the task that asked (R239 and others). -/
def State.returnX (s : State) (t : TileNo) (c : CtxNo) (tid : Nat) (d : XReg) (v : Word) : State :=
  s.onCtx t c fun x =>
    if (x.task.map (·.tid)) == some tid then { x with regs := x.regs.setX d v } else x

/-- The identity of the task the acting context runs. -/
def State.tid (s : State) : Nat := (s.cx.task.map (·.tid)).getD 0

end Sys2Proof.Machine
end

