-- ==== Sys2Proof/Machine/Space.lean ====
section
/-! DEFINITION. The address spaces: bays of the scratchpad, device virtual memory with its walk, its
caches and its homes, MRAM, host and peer memory, the event ring (R25, R26, R334 to R341, R371). -/

namespace Sys2Proof.Machine

/-! ### Bays (R25, R26, R184, R185) -/

/-- The visible length of a bay. -/
def Bay.len (b : Bay) : Nat := if b.shadow then b.size.toNat * 2048 else b.size.toNat * 4096

/-- The scratchpad offset at which the visible part starts, or with `back` the back half. -/
def Bay.start_ (b : Bay) (back : Bool) : Nat :=
  b.base.toNat * 4096 + (if b.shadow && b.front != back then b.len else 0)

/-- The code of STATE. -/
def BayState.code : BayState → Nat
  | .empty => 0 | .filling => 1 | .ready => 2 | .draining => 3

/-- An entry in the layout of R25. -/
def Bay.word (b : Bay) : Word :=
  BitVec.ofNat 64 (b.own.toNat * 2 ^ 32 + b.front.toNat * 2 ^ 31 + b.keep.toNat * 2 ^ 30
    + b.sync.toNat * 2 ^ 29 + b.shadow.toNat * 2 ^ 28 + b.st.code * 2 ^ 26
    + b.size.toNat * 2 ^ 12 + b.base.toNat)

def Tile.bay (x : Tile) (n : BayNo) : Bay := x.bays[n]
def Tile.onBay (x : Tile) (n : BayNo) (f : Bay → Bay) : Tile := { x with bays := x.bays.set n (f x.bays[n]) }
def State.bay (s : State) (n : BayNo) : Bay := (s.tile s.curTile).bay n

/-- Is a bay configured (R25)? -/
def Bay.configured (b : Bay) : Bool := b.size != 0

/-- May a context use a bay: configured and owned (R26, R183)? -/
def Bay.admits (b : Bay) (c : CtxNo) : Bool := b.configured && b.own.getLsbD c.val

/-- Zeroes in the range of a bay, with no poison left in it. -/
def Tile.zeroBay (x : Tile) (b : Bay) : Tile :=
  let lo := b.base.toNat * 4096
  let hi := lo + b.size.toNat * 4096
  { x with
    sp := x.sp.filter fun c => decide (c.1 < lo ∨ hi ≤ c.1),
    spPoison := x.spPoison.filter fun u => decide (u < lo / 64 ∨ hi / 64 ≤ u) }

/-! ### Poison (R323, R331, R337, R394) -/

/-- The 64-byte units of a range. -/
def unitsOf (a n : Nat) : List Nat := (List.range ((a + n + 63) / 64 - a / 64)).map (a / 64 + ·)

/-- Does a range touch a poisoned unit? -/
def anyPoison (l : List Nat) (a n : Nat) : Bool := (unitsOf a n).any (l.contains ·)

/-- Units wholly written are poisoned no longer. -/
def cleanUnits (l : List Nat) (a n : Nat) : List Nat :=
  l.filter fun u => !(decide (a ≤ u * 64 ∧ u * 64 + 64 ≤ a + n))

/-! ### The scratchpad as bytes (R13, R291) -/

def Tile.readSp (x : Tile) (o n : Nat) : List Byte := Mem.readBytes x.sp o n

/-- A write of scratchpad bytes. -/
def Tile.writeSp (x : Tile) (o : Nat) (bs : List Byte) : Tile :=
  { x with sp := Mem.writeBytes x.sp o bs, spPoison := cleanUnits x.spPoison o bs.length }

/-! ### Page tables (R338, R339) -/

/-- A valid leaf with the size of its page. -/
structure Leaf where
  w : Word
  big : Bool
  deriving DecidableEq, Repr

def Leaf.writable (l : Leaf) : Bool := l.w.getLsbD 2
def Leaf.hb (l : Leaf) : Bool := l.w.getLsbD 3
def Leaf.isPeer (l : Leaf) : Bool := l.w.getLsbD 4
def Leaf.shared (l : Leaf) : Bool := l.w.getLsbD 5
def Leaf.pool (l : Leaf) : Bool := l.w.getLsbD 6
def Leaf.dn (l : Leaf) : Nat := (l.w.extractLsb' 8 6).toNat

/-- The address FRAME gives, bits [51:16]. -/
def Leaf.frame (l : Leaf) : Nat := (l.w.extractLsb' 16 36).toNat * 2 ^ 16

def Leaf.size (l : Leaf) : Nat := if l.big then 2 ^ 21 else 2 ^ 16

/-- The size of device memory (R337). -/
def dramSize : Nat := 0xC000000000

/-- The leaf rules of R338 and R339. -/
def Leaf.ok (l : Leaf) : Bool :=
  l.w.getLsbD 0 && l.w.getLsbD 1 && (l.w.extractLsb' 52 12 == 0) && (l.w.extractLsb' 14 2 == 0)
    && !l.w.getLsbD 7 && (l.isPeer || l.dn == 0) && (!l.big || l.w.extractLsb' 16 5 == 0)
    && !(l.hb && l.isPeer) && !(l.pool && (l.hb || l.isPeer))
    && (if l.isPeer then decide (l.frame < 2 ^ 40) else l.hb || decide (l.frame < dramSize))

/-- The rules of a pointer entry; at levels 1 and 2 bits [11:8] are 0. -/
def pointerOk (w : Word) (upper : Bool) : Bool :=
  w.getLsbD 0 && !w.getLsbD 1 && (w.extractLsb' 40 24 == 0) && !w.getLsbD 7
    && (!upper || w.extractLsb' 8 4 == 0)

/-- The table a pointer names: entry bits [39:8]. -/
def pointerTo (w : Word) : Nat := (w.extractLsb' 8 32).toNat * 256

/-- The walk of R338: none where it fails. -/
def walk (pt : Map Word) (root va : Nat) : Option Leaf :=
  let e1 := Map.getD pt (root + 8 * (va / 2 ^ 39)) 0
  if !pointerOk e1 true then none
  else
    let e2 := Map.getD pt (pointerTo e1 + 8 * (va / 2 ^ 30 % 512)) 0
    if !pointerOk e2 true then none
    else
      let e3 := Map.getD pt (pointerTo e2 + 8 * (va / 2 ^ 21 % 512)) 0
      if e3.getLsbD 1 then (if Leaf.ok ⟨e3, true⟩ then some ⟨e3, true⟩ else none)
      else if !pointerOk e3 false then none
      else
        let e4 := Map.getD pt (pointerTo e3 + 8 * (va / 2 ^ 16 % 32)) 0
        if Leaf.ok ⟨e4, false⟩ then some ⟨e4, false⟩ else none

/-- The leaf of an address in a partition's tables. -/
def State.leaf (s : State) (p : PartNo) (va : Nat) : Option Leaf :=
  if va < 2 ^ 52 then walk (s.part p).pt (s.part p).tframe va else none

/-- Where a leaf places an address. -/
def Leaf.home (l : Leaf) (va : Nat) : Home :=
  let a := l.frame + va % l.size
  if l.hb then .host a else if l.isPeer then .peer l.dn a else .dram a

/-- The roster of a group for a sequence number: the latest whose fence does not lie above it (R264). -/
def Group.rosterAt (g : Group) (n : Nat) : Option Roster := g.rosters.find? fun r => decide (r.fence ≤ n)

/-- A group of a partition by its number. -/
def State.group? (s : State) (p : PartNo) (g : BitVec 16) : Option Group :=
  s.groups.find? fun x => x.part == p && (x.handle.extractLsb' 0 16) == g

/-- The roster in force of a group of a partition (R262). -/
def State.rosterOf (s : State) (p : PartNo) (g : BitVec 16) : Option Roster :=
  (s.group? p g).bind fun x => x.rosterAt x.nextSeq

/-- Is a device a member of the roster of a group bound to a slot of the partition (R256)? -/
def State.inRoster (s : State) (p : PartNo) (dn : Nat) : Bool :=
  (s.part p).gslots.toList.any fun g => match g with
    | some b => match s.rosterOf p b.group with
      | some r => r.members.any fun m => m.1.toNat == dn
      | none => false
    | none => false

/-- Before RUN a protected partition makes no host-link request (R378, log 33). -/
def State.linkBarred (s : State) (p : PartNo) : Bool := (s.part p).prot && (s.func (s.funcOf p)).tdisp != .run

/-- In ERROR the device memory of a protected partition is not readable; what the device writes to it still lands (R378). -/
def State.sealed (s : State) (p : PartNo) : Bool := (s.part p).prot && (s.func (s.funcOf p)).tdisp == .error

/-- The translation of an access with its checks (R256, R339, R378). -/
def State.translate (s : State) (p : PartNo) (va : Nat) (store : Bool) : Except Cause Home :=
  match s.leaf p va with
  | none => .error (if store then .storeFault else .loadFault)
  | some l =>
    if store && !l.writable then .error .storeFault
    else if !store && s.sealed p then .error .loadFault
    else if l.hb && s.linkBarred p then .error (if store then .storeFault else .loadFault)
    else if l.isPeer && !s.inRoster p l.dn then .error .roster
    else if l.isPeer && store && (s.part p).prot && !l.shared then .error .protection
    else .ok (l.home va)

/-! ### Homes -/

/-- Is a peer out of reach (R260)? -/
def State.lost (s : State) : Home → Bool
  | .peer dn _ => s.unreachable.getLsbD dn
  | _ => false

/-- The place `n` bytes on. -/
def Home.add : Home → Nat → Home
  | .dram a, n => .dram (a + n)
  | .host a, n => .host (a + n)
  | .peer d a, n => .peer d (a + n)

/-- The 256-byte line a place lies in. -/
def Home.line : Home → Home
  | .dram a => .dram (a / 256 * 256)
  | .host a => .host (a / 256 * 256)
  | .peer d a => .peer d (a / 256 * 256)

/-- Peer memory holds device `d` from d × 2^40 on. -/
def peerAddr (d a : Nat) : Nat := d * 2 ^ 40 + a

/-- The bytes at a home. -/
def State.homeRead (s : State) (h : Home) (n : Nat) : List Byte :=
  match h with
  | .dram a => Mem.readBytes s.dram a n
  | .host a => Mem.readBytes s.host a n
  | .peer d a => Mem.readBytes s.peer (peerAddr d a) n

/-- A region of 2 MiB marked as written (R393). -/
def markRegion (l : List Nat) (r : Nat) : List Nat := if l.contains r then l else l ++ [r]

/-! ### The system cache (R334, R336, R337) -/

/-- The colour of a device physical address (R336). -/
def State.colourOf (s : State) (pa : Nat) : Nat :=
  (BitVec.ofNat 6 (pa / 2 ^ 21) ^^^ BitVec.ofNat 6 (pa / 2 ^ 27) ^^^ BitVec.ofNat 6 (pa / 2 ^ 33)
    ^^^ BitVec.ofNat 6 (pa / 2 ^ 39 % 2) ^^^ s.pkg.chashKey).toNat

/-- The set of the system cache in which it places an address (R336): the cache stands before the memory, so the two
hold one value (log 10). -/
def State.cacheSet (s : State) (pa : Nat) : Nat := s.colourOf pa * 1024 + pa / 2 ^ 8 % 1024

/-- The LPDDR-6 channel of an address (R337). -/
def channelOf (pa : Nat) : Nat := pa / 4096 % 48

/-- The system cache with a line in it, dirty where it is written, and the regions of LPDDR-6 written with it: where the 16
ways of its set are full a line leaves, and its bytes reach LPDDR-6 where it is dirty (R334, R393, log 10). -/
def State.sysLine (s : State) (dirty : Bool) (q : Map Bool × List Nat) (l : Nat) : Map Bool × List Nat :=
  let ks := (q.1.map (·.1)).filter fun k => s.cacheSet (k * 256) == s.cacheSet (l * 256)
  let full := !ks.contains l && decide (16 ≤ ks.length)
  let (m, rs) := match full, ks[Config.sysVictim s.now l % ks.length]? with
    | true, some v => (Map.erase q.1 v, if Map.getD q.1 v false then markRegion q.2 (v / 8192) else q.2)
    | _, _ => q
  (Map.set m l (dirty || Map.getD m l false), rs)

/-- The lines of a range of device memory brought into the system cache. -/
def State.sysLines (s : State) (dirty : Bool) (a n : Nat) : Map Bool × List Nat :=
  ((List.range ((a + n + 255) / 256 - a / 256)).map (a / 256 + ·)).foldl (s.sysLine dirty) (s.sysCache, s.regions)

/-- A line of device memory read through the system cache. -/
def State.sysRead (s : State) (a : Nat) : State :=
  let q := s.sysLines false a 1
  { s with sysCache := q.1, regions := q.2 }

/-- Every dirty line of the system cache written to LPDDR-6 (R393). -/
def State.sysFlush (s : State) : State :=
  { s with
    sysCache := s.sysCache.map fun (e : Nat × Bool) => (e.1, false),
    regions := (s.sysCache.filter fun (e : Nat × Bool) => e.2).foldl (fun l (e : Nat × Bool) => markRegion l (e.1 / 8192)) s.regions }

/-- Bytes written to a home; a write to a peer out of reach is dropped (R260). -/
def State.homeWrite (s : State) (h : Home) (bs : List Byte) : State :=
  match h with
  | .dram a =>
    let q := s.sysLines true a bs.length
    { s with
      dram := Mem.writeBytes s.dram a bs, poison := cleanUnits s.poison a bs.length, sysCache := q.1, regions := q.2 }
  | .host a => { s with host := Mem.writeBytes s.host a bs }
  | .peer d a => if s.lost h then s else { s with
      peer := Mem.writeBytes s.peer (peerAddr d a) bs, peerPoison := cleanUnits s.peerPoison (peerAddr d a) bs.length }

/-- Does a range touch an LPDDR-6 channel that BOOT found failed and disabled (R399, log 101)? -/
def State.channelDown (s : State) (a n : Nat) : Bool :=
  s.pkg.failed.any fun f => match f with
    | .channel c => (List.range (n / 4096 + 2)).any fun i => channelOf (min (a + 4096 * i) (a + n - 1)) == c.val
    | _ => false

/-- Is a unit of a range at a home poisoned, or its channel disabled? -/
def State.homePoison (s : State) (h : Home) (n : Nat) : Bool :=
  match h with
  | .dram a => anyPoison s.poison a n || s.channelDown a n
  | .peer d a => anyPoison s.peerPoison (peerAddr d a) n
  | .host _ => false

/-- Is a place in a sync-object line (R208)? -/
def State.isSync (s : State) (h : Home) : Bool := s.syncLines.any fun l => l.home == h.line

/-! ### Lines -/

/-- A line's bytes. -/
def lineBytes (d : BitVec 2048) : List Byte := bytesOfNat 256 d.toNat

/-- A line from its bytes. -/
def lineOf (bs : List Byte) : BitVec 2048 := BitVec.ofNat 2048 (natOfBytes bs)

/-- The bits of the bytes a byte mask selects. -/
def spread8 (m : BitVec 256) : BitVec 2048 :=
  BitVec.ofNat 2048 ((List.range 256).foldr (fun i acc => (if m.getLsbD i then 255 else 0) + 256 * acc) 0)

/-- Bytes of `new` under a mask, of `old` elsewhere. -/
def merge8 (m : BitVec 256) (old new : BitVec 2048) : BitVec 2048 :=
  (new &&& spread8 m) ||| (old &&& ~~~(spread8 m))

/-- The mask of `n` bytes from byte `i`. -/
def byteMask (i n : Nat) : BitVec 256 := BitVec.ofNat 256 ((2 ^ n - 1) * 2 ^ i)

/-- A list of byte ranges (first, length) of the virtual space. -/
abbrev Ranges := List (Nat × Nat)

/-- The whole address space. -/
def wholeSpace : Ranges := [(0, 2 ^ 52)]

/-- The bytes of the line at `a` that ranges cover. -/
def rangeMask (rs : Ranges) (a : Nat) : BitVec 256 :=
  rs.foldl (fun m r =>
    let lo := max r.1 a
    let hi := min (r.1 + r.2) (a + 256)
    if lo < hi then m ||| byteMask (lo - a) (hi - lo) else m) 0

/-- Do ranges touch the line at `a`? -/
def touches (rs : Ranges) (a : Nat) : Bool := rs.any fun r => decide (r.1 < a + 256 ∧ a < r.1 + r.2)

/-- The key of a virtual line: partition and line number (R334: every line is tagged). -/
def lineKey (p : PartNo) (va : Nat) : Nat := p.val * 2 ^ 44 + va / 256

def keyVa (k : Nat) : Nat := k % 2 ^ 44 * 256
def keyPart (k : Nat) : Nat := k / 2 ^ 44

/-- How far a write-back reaches (R282). -/
def scopeReach : Scope → Nat
  | .ctx => 0 | .tile => 0 | .clu => 1 | .part => 2 | .dev => 2 | .grp => 3

/-! ### Write-backs at a home (R290, R394) -/

/-- Bytes 64`i` to 64`i` + 63 of a byte mask of a line. -/
def unitMask (m : BitVec 256) (i : Nat) : BitVec 64 := m.extractLsb' (64 * i) 64

/-- Does a home refuse the bytes of a unit of a line: it is poisoned, and they do not fill it (R290)? -/
def State.unitRefused (s : State) (h : Home) (m : BitVec 256) (i : Nat) : Bool :=
  unitMask m i != 0 && unitMask m i != BitVec.allOnes 64 && s.homePoison (h.add (64 * i)) 64

/-- Does a home refuse bytes of a line? -/
def State.homeRefuses (s : State) (h : Home) (m : BitVec 256) : Bool :=
  m != 0 && (s.lost h || (List.range 4).any (s.unitRefused h m))

/-- A unit of device memory, or of a peer's, poisoned (R337, R394). -/
def State.poisonHome (s : State) (h : Home) : State :=
  match h with
  | .dram a => if s.poison.contains (a / 64) then s else { s with poison := s.poison ++ [a / 64] }
  | .peer d a => { s with peerPoison := markRegion s.peerPoison (peerAddr d a / 64) }
  | .host _ => s

/-- The poisoned units of a line at its home. -/
def State.homeBad (s : State) (h : Home) : BitVec 4 :=
  BitVec.ofNat 4 ((List.range 4).foldl (fun n i => n + (s.homePoison (h.add (64 * i)) 64).toNat * 2 ^ i) 0)

/-- The poisoned units of a line whose bytes `m` come from another: a unit that they fill takes the other's poison, one
that they touch has the poison of both. -/
def mergeBad (m : BitVec 256) (old new : BitVec 4) : BitVec 4 :=
  BitVec.ofNat 4 ((List.range 4).foldl (fun n i =>
    let u := unitMask m i
    let b := if u = 0 then old.getLsbD i else if u = BitVec.allOnes 64 then new.getLsbD i
      else old.getLsbD i || new.getLsbD i
    n + b.toNat * 2 ^ i) 0)

/-- Is a unit that a range of a line touches poisoned? -/
def badIn (bad : BitVec 4) (i n : Nat) : Bool :=
  (List.range 4).any fun u => bad.getLsbD u && decide (i < 64 * u + 64 ∧ 64 * u < i + n)

/-- The bytes `m` of a line written to its home, a unit at a time: a unit that the home refuses keeps its bytes, and a
poisoned unit poisons the one that it writes. -/
def State.homeMerge (s : State) (h : Home) (m : BitVec 256) (d : BitVec 2048) (bad : BitVec 4) : State :=
  (List.range 4).foldl (fun s i =>
    let q := h.add (64 * i)
    let u := unitMask m i
    if u = 0 ∨ s.unitRefused h m i then s
    else
      let old := s.homeRead q 64
      let new := (lineBytes d).drop (64 * i)
      let s1 := s.homeWrite q ((List.range 64).map fun j => if u.getLsbD j then new.getD j 0 else old.getD j 0)
      if bad.getLsbD i then s1.poisonHome q else s1) s

/-! ### Cluster cache (R334, log 10) -/

def State.cline? (s : State) (k : ClusterNo) (key : Nat) : Option CLine := Map.get? (s.clusters[k]).cache key

def State.setCline (s : State) (k : ClusterNo) (key : Nat) (l : CLine) : State :=
  s.onCluster k fun x => { x with cache := Map.set x.cache key l }

/-- The dirty bytes of a cluster line written to its home. -/
def State.flushCline (s : State) (k : ClusterNo) (key : Nat) : State :=
  match s.cline? k key with
  | none => s
  | some l =>
    if l.dirty = 0 then s
    else (s.homeMerge l.home l.dirty l.data l.bad).setCline k key { l with dirty := 0 }

/-- A cluster line flushed and dropped. -/
def State.dropCline (s : State) (k : ClusterNo) (key : Nat) : State :=
  (s.flushCline k key).onCluster k fun x => { x with cache := Map.erase x.cache key }

/-- The keys of a cache's lines that lie in the set of a line: its number modulo the number of sets (log 9). -/
def setKeys {α : Type} (m : Map α) (sets key : Nat) : List Nat :=
  (m.map (·.1)).filter fun k => k % sets == key % sets

/-- The line that leaves a set of `ways` lines for another, which a free value chooses (log 9): none where there is
room, or where the line is held already. -/
def State.wayFor {α : Type} (s : State) (m : Map α) (sets ways key : Nat) : Option Nat :=
  let ks := setKeys m sets key
  if ks.contains key ∨ ks.length < ways then none else ks[Config.delay s.freeCtr % ks.length]?

/-- Room for a line in the cluster cache: 8 MiB in 16 ways (R334). -/
def State.roomCline (s : State) (k : ClusterNo) (key : Nat) : State :=
  match s.wayFor (s.clusters[k]).cache 2048 16 key with
  | none => s
  | some v => s.drew.dropCline k v

/-- The keys of a partition's cluster lines that ranges touch. -/
def State.clineKeys (s : State) (k : ClusterNo) (p : PartNo) (rs : Ranges) : List Nat :=
  ((s.clusters[k]).cache.map (·.1)).filter fun key => keyPart key == p.val && touches rs (keyVa key)

/-! ### L1 (R286, R334, log 9) -/

def State.line? (s : State) (t : TileNo) (key : Nat) : Option Line := Map.get? (s.tile t).l1 key
def State.setLine (s : State) (t : TileNo) (key : Nat) (l : Line) : State :=
  s.onTile t fun x => { x with l1 := Map.set x.l1 key l }
def State.eraseLine (s : State) (t : TileNo) (key : Nat) : State :=
  s.onTile t fun x => { x with l1 := Map.erase x.l1 key }

/-- The dirty bytes of every context. -/
def Line.anyDirty (l : Line) : BitVec 256 := l.dirty[0] ||| l.dirty[1] ||| l.dirty[2] ||| l.dirty[3]

/-- Bytes that are dirty for no context any more. -/
def Line.clear (l : Line) (m : BitVec 256) : Line := { l with dirty := l.dirty.map (· &&& ~~~m) }

/-- The line a miss brings in, with its poison: from the cluster cache, or from its home into the cluster cache; a
peer line is held in L1 only (R296). -/
def State.fetchLine (s : State) (t : TileNo) (key : Nat) (h : Home) : (BitVec 2048 × BitVec 4) × State :=
  match h with
  | .dram a =>
    match s.cline? (clusterOf t) key with
    | some l => ((l.data, l.bad), s)
    | none =>
      let d := (lineOf (s.homeRead h 256), s.homeBad h)
      let s1 := s.sysRead a
      (d, (s1.roomCline (clusterOf t) key).setCline (clusterOf t) key ⟨d.1, 0, h, d.2⟩)
  | _ => ((lineOf (s.homeRead h 256), s.homeBad h), s)

/-- The bytes `m` of a line written back as far as `reach` (R282). -/
def State.wbLine (s : State) (t : TileNo) (key : Nat) (m : BitVec 256) (reach : Nat) : State :=
  match s.line? t key with
  | none => s
  | some l =>
    if m = 0 then s
    else match l.home with
    | .dram _ =>
      if reach = 0 then s
      else
        let k := clusterOf t
        let s0 := s.roomCline k key
        let old := match s0.cline? k key with
          | some c => c
          | none => ⟨lineOf (s0.homeRead l.home 256), 0, l.home, s0.homeBad l.home⟩
        let new : CLine := ⟨merge8 m old.data l.data, old.dirty ||| m, l.home, mergeBad m old.bad l.bad⟩
        let s1 := (s0.setCline k key new).setLine t key (l.clear m)
        if 2 ≤ reach then s1.flushCline k key else s1
    | h =>
      if reach < 3 then s else (s.homeMerge h m l.data l.bad).setLine t key (l.clear m)

/-- The keys of a partition's L1 lines that ranges touch. -/
def State.lineKeys (s : State) (t : TileNo) (p : PartNo) (rs : Ranges) : List Nat :=
  ((s.tile t).l1.map (·.1)).filter fun key => keyPart key == p.val && touches rs (keyVa key)

/-- The dirty bytes of a line within ranges: one context's, or every context's. -/
def State.dirtyIn (s : State) (t : TileNo) (c : Option CtxNo) (rs : Ranges) (key : Nat) : BitVec 256 :=
  match s.line? t key with
  | none => 0
  | some l => (match c with
    | some c => l.dirty[c]
    | none => l.anyDirty) &&& rangeMask rs (keyVa key)

/-- Write back dirty bytes in ranges (R286); what earlier reached the cluster cache goes on with it. -/
def State.writeBack (s : State) (t : TileNo) (c : Option CtxNo) (rs : Ranges) (sc : Scope) : State :=
  match s.partOf t with
  | none => s
  | some p =>
    let s1 := (s.lineKeys t p rs).foldl (fun s key => s.wbLine t key (s.dirtyIn t c rs key) (scopeReach sc)) s
    if 2 ≤ (scopeReach sc) then (s1.clineKeys (clusterOf t) p rs).foldl (fun s key => s.flushCline (clusterOf t) key) s1
    else s1

/-- A line refreshed: dropped where it is clean; where a context's dirty bytes stand in it, its
clean bytes are fetched anew (R286, log 9). -/
def State.refreshLine (s : State) (t : TileNo) (key : Nat) : State :=
  match s.line? t key with
  | none => s
  | some l =>
    if l.anyDirty = 0 then s.eraseLine t key
    else
      let (d, s1) := s.fetchLine t key l.home
      s1.setLine t key { l with data := merge8 l.anyDirty d.1 l.data, bad := mergeBad l.anyDirty d.2 l.bad }

/-- Refresh ranges (R286): at .PART and wider the cluster cache's lines go first. -/
def State.refresh (s : State) (t : TileNo) (rs : Ranges) (sc : Scope) : State :=
  match s.partOf t with
  | none => s
  | some p =>
    let s1 := if 2 ≤ (scopeReach sc) then
        (s.clineKeys (clusterOf t) p rs).foldl (fun s key => s.dropCline (clusterOf t) key) s
      else s
    (s1.lineKeys t p rs).foldl (fun s key => s.refreshLine t key) s1

/-- A line written back whole and dropped, as far as its home. -/
def State.evictLine (s : State) (t : TileNo) (key : Nat) : State :=
  match s.line? t key with
  | none => s
  | some l => (s.wbLine t key l.anyDirty 3).eraseLine t key

/-- A line that leaves L1 for want of room, or at any access (log 9): its dirty bytes go to the next cache, or to the
peer it belongs to. -/
def State.spillLine (s : State) (t : TileNo) (key : Nat) : State :=
  match s.line? t key with
  | none => s
  | some l => (s.wbLine t key l.anyDirty (match l.home with
    | .dram _ => 1
    | _ => 3)).eraseLine t key

/-- Room for a line in L1: 512 KiB in 8 ways (R334). -/
def State.roomLine (s : State) (t : TileNo) (key : Nat) : State :=
  match s.wayFor (s.tile t).l1 256 8 key with
  | none => s
  | some v => s.drew.spillLine t v

/-- A clean line brought into L1. -/
def State.fillLine (s : State) (t : TileNo) (key : Nat) (h : Home) : Line × State :=
  let s0 := s.roomLine t key
  let (d, s1) := s0.fetchLine t key h
  let l : Line := ⟨d.1, Vector.replicate 4 0, h, d.2⟩
  (l, s1.setLine t key l)

/-- Every copy of a line of a partition written back and dropped: what a sync operation, and the
step of an engine or the hub at a home, need (log 11). -/
def State.dropCopies (s : State) (p : PartNo) (va : Nat) : State :=
  let key := lineKey p va
  let s1 := (s.tilesOf p).foldl (fun s t => s.evictLine t key) s
  (List.finRange 40).foldl (fun s k => s.dropCline k key) s1

/-- A line becomes a sync-object line (R208), and the L1 of the tile that asks holds it from now on (R334); a step of
the hub leaves it where it stands. -/
def State.makeSync (s : State) (p : PartNo) (va : Nat) (h : Home) (t : Option TileNo) : State :=
  if s.isSync h then
    { s with syncLines := s.syncLines.map fun l => if l.home = h.line ∧ t.isSome then { l with holder := t } else l }
  else
    let s1 := s.dropCopies p va
    { s1 with syncLines := s1.syncLines ++ [⟨h.line, t⟩] }

/-- Is an access to a home made at the home itself: host-bias pages and sync-object lines? -/
def State.direct (s : State) (h : Home) : Bool :=
  match h with
  | .host _ => true
  | _ => s.isSync h

/-- `n` bytes of one line as a context's load reads them, and whether a unit of them is poisoned: through L1, or at the
home. -/
def State.loadLine (s : State) (t : TileNo) (p : PartNo) (va n : Nat) (h : Home) : (List Byte × Bool) × State :=
  if s.direct h then ((s.homeRead h n, s.homePoison h n), s)
  else
    let key := lineKey p va
    let s0 := if (s.free 1).getLsbD 0 then s.drew.spillLine t key else s.drew
    let (l, s1) := match s0.line? t key with
      | some l => (l, s0)
      | none => s0.fillLine t key h.line
    ((((lineBytes l.data).drop (va % 256)).take n, badIn l.bad (va % 256) n), s1)

/-- Bytes of one line as a context's store writes them: into L1, dirty for the context, or at the home. -/
def State.storeLine (s : State) (t : TileNo) (c : CtxNo) (p : PartNo) (va : Nat) (bs : List Byte) (h : Home) : State :=
  if s.direct h then s.homeWrite h bs
  else
    let key := lineKey p va
    let (l, s1) := match s.line? t key with
      | some l => (l, s)
      | none => s.fillLine t key h.line
    let m := byteMask (va % 256) bs.length
    let new := BitVec.ofNat 2048 (natOfBytes bs * 2 ^ (8 * (va % 256)))
    s1.setLine t key { l with data := merge8 m l.data new, dirty := l.dirty.set c (l.dirty[c] ||| m), bad := mergeBad m l.bad 0 }

/-- What a context's read of a line would return, without moving it. -/
def State.peekLine (s : State) (t : TileNo) (p : PartNo) (va n : Nat) (h : Home) : List Byte :=
  let key := lineKey p va
  match s.line? t key with
  | some l => (lineBytes l.data).drop (va % 256) |>.take n
  | none => match s.cline? (clusterOf t) key with
    | some l => (lineBytes l.data).drop (va % 256) |>.take n
    | none => s.homeRead h n

/-- Is a unit poisoned that such a read would touch? -/
def State.peekBad (s : State) (t : TileNo) (p : PartNo) (va n : Nat) (h : Home) : Bool :=
  let key := lineKey p va
  match s.line? t key with
  | some l => badIn l.bad (va % 256) n
  | none => match s.cline? (clusterOf t) key with
    | some l => badIn l.bad (va % 256) n
    | none => s.homePoison h n

/-! ### Ranges of virtual memory -/

/-- A range cut at 256-byte lines. -/
def pieces : Nat → Nat → Nat → List (Nat × Nat)
  | 0, _, _ => []
  | _, _, 0 => []
  | fuel + 1, a, n =>
    let k := min n (256 - a % 256)
    (a, k) :: pieces fuel (a + k) (n - k)

def piecesOf (a n : Nat) : List (Nat × Nat) := pieces (n / 256 + 2) a n

/-- Bytes read by the hub at their homes; none where translation fails. -/
def State.hubRead (s : State) (p : PartNo) (a n : Nat) : Option (List Byte) :=
  (piecesOf a n).foldr (fun q acc => match acc, s.translate p q.1 false with
    | some bs, .ok h => some (s.homeRead h q.2 ++ bs)
    | _, _ => none) (some [])

/-- Does a range hold poison at its homes? -/
def State.hubPoison (s : State) (p : PartNo) (a n : Nat) : Bool :=
  (piecesOf a n).any fun q => match s.translate p q.1 false with
    | .ok h => s.homePoison h q.2
    | .error _ => false

/-- Does every byte of a range translate for a store? -/
def State.canWrite (s : State) (p : PartNo) (a n : Nat) : Bool :=
  (piecesOf a n).all fun q => match s.translate p q.1 true with
    | .ok _ => true
    | .error _ => false

/-- Bytes written by the hub at their homes; nothing is written where a byte does not translate. -/
def State.hubWrite (s : State) (p : PartNo) (a : Nat) (bs : List Byte) : State :=
  if s.canWrite p a bs.length then
    (piecesOf a bs.length).foldl (fun s q => match s.translate p q.1 true with
      | .ok h => s.homeWrite h ((bs.drop (q.1 - a)).take q.2)
      | .error _ => s) s
  else s

/-- The windows of a partition's dirty bitmaps marked for bytes the device wrote (R381). -/
def State.markDirty (s : State) (p : PartNo) (a n : Nat) : State :=
  s.onPart p fun x => { x with windows := x.windows.map fun w => match w with
    | none => none
    | some w =>
      let blocks := (piecesOf a n).filterMap fun q =>
        if w.base ≤ q.1 ∧ q.1 < w.base + 2 ^ 23 then some ((q.1 - w.base) / 256) else none
      some { w with bits := blocks.foldl (fun b i => b ||| BitVec.twoPow 32768 i) w.bits } }

/-! ### MRAM (R330 to R332) -/

/-- Where program space ends and the sweep area starts. -/
def mramProg : Nat := 0x17E00000

/-- Where the slice ends. -/
def mramSize : Nat := 0x18000000

/-! ### The event ring (R371) -/

/-- An MSI-X vector of a function signalled: a message, or its pending bit while its table entry masks it (R370,
log 38). -/
def Func.signal (f : Func) (v : Fin 8) : Func :=
  if (f.msix[2 * v.val + 1]).getLsbD 32 then { f with pba := f.pba ||| BitVec.twoPow 64 v.val }
  else { f with signals := f.signals + 1 }

/-- Vector 0 signalled for an event, at most once a microsecond: an earlier message stands for it, or one goes out a
microsecond after the last (R371). -/
def Func.signalEvent (f : Func) (now : Nat) : Func :=
  match f.lastSignal with
  | none => { f.signal 0 with lastSignal := some now }
  | some last =>
    if now < last then f else { f.signal 0 with lastSignal := some (max now (last + nanos 1000)) }

/-- Post an event to a function's ring: before RUN a task of a protected partition makes no host-link request, while the
device posts its own events (R371, R378). -/
def State.post (s : State) (f : FuncNo) (ev : Nat) (value : Word) (dev : Bool) (ctxid tag : Nat) : State :=
  let x := s.func f
  let size := 2 ^ (x.evcfg.extractLsb' 0 5).toNat
  let a := (x.evbase.extractLsb' 12 40).toNat * 4096 + x.evtail.toNat % size * 32
  let bytes := bytesOfNat 8 value.toNat ++ bytesOfNat 4 (ev % 4096 + dev.toNat * 2 ^ 15)
    ++ bytesOfNat 4 ctxid ++ bytesOfNat 8 s.time ++ bytesOfNat 4 tag ++ bytesOfNat 4 0
  let drop := s.onFunc f fun x =>
    { x with evovf := if x.evovf = BitVec.allOnes 32 then x.evovf else x.evovf + 1 }
  let done := fun (s : State) => s.onFunc f fun x => ({ x with evtail := x.evtail + 1 }.signalEvent s.now)
  if !x.evcfg.getLsbD 6 || decide (size ≤ (x.evtail - x.evhead).toNat) then drop
  else if x.evcfg.getLsbD 5 then
    (if !dev && x.part.any s.linkBarred then drop else done (s.homeWrite (.host a) bytes))
  else match x.part with
    | none => drop
    | some p =>
      if s.canWrite p a 32 then done ((s.hubWrite p a bytes).markDirty p a 32) else drop

/-- Post an event of a partition to its host function's ring. -/
def State.postPart (s : State) (p : PartNo) (ev : Nat) (value : Word) (dev : Bool) (ctxid tag : Nat) : State :=
  s.post (s.funcOf p) ev value dev ctxid tag

/-! ### Error counters (R382) -/

/-- A counter of a function that saturates. -/
def Func.count (f : Func) (i : Fin 6) : Func :=
  { f with errc := f.errc.set i (if f.errc[i] = BitVec.allOnes 64 then f.errc[i] else f.errc[i] + 1) }

/-- Count an error of a partition, for its function and for the PF. -/
def State.countErr (s : State) (p : PartNo) (i : Fin 6) : State :=
  (s.onFunc (s.funcOf p) (·.count i)).onFunc 0 (·.count i)

end Sys2Proof.Machine
end

