-- ==== Sys2Proof/Machine/Hub.lean ====
section
/-! DEFINITION. Steps of the hub that several instructions share: scheduling them, deferred faults,
continuations, barrier objects, signal objects, tiles woken, cluster levels. -/

namespace Sys2Proof.Machine

/-! ### Deferred engine faults (R312, R313) -/

/-- Bytes 0 to 7 of a record. -/
def recWord (r : DefRec) : Word :=
  BitVec.ofNat 64 (r.detail.toNat + r.opc.toNat * 2 ^ 8 + r.slotno.toNat * 2 ^ 16)

/-- The context runs the task, and has not ended it. -/
def Ctx.runs (x : Ctx) (tid : Nat) : Bool :=
  (x.task.map (·.tid)) == some tid && x.run != .winding && x.run != .free

/-- A deferred fault arrives: it joins the queue, is counted as lost where that is full, and goes
to the event ring once the task has ended. -/
def State.arrive (s : State) (t : TileNo) (c : CtxNo) (tid : Nat) (r : DefRec) : State :=
  if (s.ctxAt t c).runs tid then
    s.onCtx t c fun x =>
      if x.dq.length < 32 then { x with dq := x.dq ++ [r] } else { x with dovf := min 255 (x.dovf + 1) }
  else match s.partOf t with
    | some p => s.postPart p 0xFFF (recWord r) true (s.ctxid t c).toNat 0
    | none => s

/-- A record of a fault. -/
def defRec (detail opc : Nat) (slot : Option SlotNo) (addr : Word) : DefRec :=
  ⟨BitVec.ofNat 8 detail, BitVec.ofNat 8 opc, match slot with
    | some n => BitVec.ofNat 4 n.val
    | none => 15, addr⟩

/-! ### Power of tiles (R386, R387) -/

/-- Bring a tile to RUN: at once underway, after a power-off that is under way, or after waking. -/
def State.wake (s : State) (t : TileNo) : State :=
  let x := s.tile t
  match x.power with
  | .run => s
  | .waking => s
  | .idle => (s.setTile t { x with power := .waking }).sched (nanos 20) (nanos 20) (orderKey t 0) (.tileWake t)
  | .off => (s.setTile t { x with power := .waking }).sched (nanos 1800) (nanos 1800) (orderKey t 0) (.tileWake t)
  | .goingOff _ => s.setTile t { x with power := .goingOff true }

/-! ### Cluster levels (R138, R389, R390) -/

/-- The level a cluster is to run at: the highest standing request, or DL, and BL at most. -/
def State.wantedLevel (s : State) (k : ClusterNo) : Fin 8 :=
  let x := s.clusters[k]
  let reqs := (allTiles.filter fun t => clusterOf t == k).flatMap fun t =>
    (s.tile t).ctxs.toList.filterMap (·.dvfs)
  let top := match reqs with
    | [] => x.dl
    | r :: rs => rs.foldl max r
  min top x.bl

/-- The clocks of a cluster's tiles stop for 50 ns. -/
def State.pauseCluster (s : State) (k : ClusterNo) : State :=
  { s with tiles := Vector.ofFn fun t : TileNo =>
      if clusterOf t = k then { s.tile t with nextAt := (s.tile t).nextAt + nanos 50 } else s.tile t }

/-- The clock of a cluster switches to a level. -/
def State.switchClock (s : State) (k : ClusterNo) (l : Fin 8) : State :=
  if (s.clusters[k]).level = l then s else (s.onCluster k fun x => { x with level := l }).pauseCluster k

/-- Start a level change where the cluster is not at its level and none is under way (R390); while
the package is throttled, or recovers a step at a time, no request raises a cluster (R384). Downward the clock switches
first, and the change ends once the voltage has fallen; upward it switches as the change ends (R390, log 53). -/
def State.relevel (s : State) (k : ClusterNo) : State :=
  let x := s.clusters[k]
  let w := s.wantedLevel k
  if x.change.isSome ∨ w = x.level ∨ ((s.pkg.throttled ∨ s.pkg.recovering) ∧ x.level < w) then s
  else
    let steps := if x.level < w then w.val - x.level.val else x.level.val - w.val
    let hi := if x.level < w then nanos (20000 * steps) else nanos (2000 * steps)
    let s1 := if w < x.level then s.switchClock k w else s
    (s1.onCluster k fun x => { x with change := some w }).sched 0 hi 1000 (.levelChangeComplete k)

/-! ### Ready entries -/

/-- Contexts of tiles in IDLE ask for work when an entry becomes ready; those of tiles in RUN ask in
every clock (R355, R386). -/
def State.kick (s : State) (p : PartNo) : State :=
  (s.tilesOf p).foldl (fun s t =>
    if (s.tile t).power = .idle then
      allCtxs.foldl (fun s c =>
        if (s.ctxAt t c).run = .free ∧ !(s.agenda.any fun d => d.ev == .selection t c) then
          s.schedAt s.now (orderKey t c) (.selection t c)
        else s) s
    else s) s

/-- A function's queues looked at within 200 ns (R343): the event names the queue that is served
first; which command it is, the step reads for itself. -/
def State.serve (s : State) (f : FuncNo) : State :=
  if s.agenda.any (fun d => match d.ev with
    | .queueNop g _ => g == f
    | _ => false) then s
  else s.sched 0 (nanos 200) 900 (.queueNop f 0)

/-! ### Continuations (R118, R119) -/

/-- A continuation of the pool, by its index. -/
def State.cont? (s : State) (p : PartNo) (i : Nat) : Option Cont := Map.get? (s.part p).conts i

def State.onCont (s : State) (p : PartNo) (i : Nat) (f : Cont → Cont) : State :=
  s.onPart p fun x => { x with conts := Map.adjust x.conts i f }

/-- A continuation enqueued with a status: 0 DONE, 1 ABANDONED, 2 FAULT. -/
def State.enqueue (s : State) (p : PartNo) (i : Nat) (status : Nat) : State :=
  (s.onCont p i fun k => { k with ready := some (status, s.now), next := none }).kick p

/-- The waiters of a list from `head` on, `n` of them. -/
def State.chain (s : State) (p : PartNo) (head : Nat) : Nat → List Nat
  | 0 => []
  | n + 1 => head :: match (s.cont? p head).bind (·.next) with
    | some i => s.chain p i n
    | none => []

/-- Link waiters in order. -/
def State.relink (s : State) (p : PartNo) : List Nat → State
  | [] => s
  | [i] => s.onCont p i fun k => { k with next := none }
  | i :: j :: l => (s.onCont p i fun k => { k with next := some j }).relink p (j :: l)

/-! ### Barrier objects (R190 to R194) -/

/-- A field of a barrier. -/
def barGet (b : BitVec 128) (lo w : Nat) : Nat := (b.extractLsb' lo w).toNat

/-- A barrier with a field replaced. -/
def barSet (b : BitVec 128) (lo w v : Nat) : BitVec 128 :=
  (b &&& ~~~(BitVec.ofNat 128 ((2 ^ w - 1) * 2 ^ lo))) ||| BitVec.ofNat 128 (v % 2 ^ w * 2 ^ lo)

def barGen (b : BitVec 128) : Nat := barGet b 0 4
def barOneshot (b : BitVec 128) : Bool := b.getLsbD 4
def barSpent (b : BitVec 128) : Bool := b.getLsbD 7
def barExp (b : BitVec 128) : Nat := barGet b 8 14
def barPend (b : BitVec 128) : Nat := barGet b 22 14
def barIn (b : BitVec 128) : Nat := barGet b 36 16
def barOut (b : BitVec 128) : Nat := barGet b 52 16
def barWhead (b : BitVec 128) : Nat := barGet b 68 24
def barWcnt (b : BitVec 128) : Nat := barGet b 92 12

def Tile.bar (x : Tile) (o : Nat) : BitVec 128 := BitVec.ofNat 128 (Mem.readNat x.sp o 16)
def State.bar (s : State) (t : TileNo) (o : Nat) : BitVec 128 := (s.tile t).bar o
def State.setBar (s : State) (t : TileNo) (o : Nat) (b : BitVec 128) : State :=
  s.onTile t fun x => { x with sp := Mem.writeNat x.sp o 16 b.toNat }

/-- Do IN, OUT and PEND stand at 0, so that the phase of a live barrier is done (R191)? -/
def barDone (b : BitVec 128) : Bool := !barSpent b && barPend b == 0 && barIn b == 0 && barOut b == 0

/-- complete_if_done of R191: the waiters are enqueued with DONE in the order they joined. -/
def State.completeBar (s : State) (p : PartNo) (t : TileNo) (o : Nat) : State :=
  let b := s.bar t o
  if barDone b then
    let ws := s.chain p (barWhead b) (barWcnt b)
    let b1 := barSet (barSet (barSet b 0 4 (barGen b + 1)) 92 12 0) 68 24 0
    let b2 := if barOneshot b then barSet b1 7 1 1 else barSet b1 22 14 (barExp b)
    ws.foldl (fun s i => s.enqueue p i 0) (s.setBar t o b2)
  else s

/-- A barrier reference read as tile, bay and scratchpad offset, where it is valid (R189). -/
def State.barRef (s : State) (p : PartNo) (r : Word) : Option (TileNo × BayNo × Nat) :=
  let off := (r.extractLsb' 0 23).toNat
  match tileOf (r.extractLsb' 29 8).toNat with
  | none => none
  | some t =>
    let n : BayNo := Fin.ofNat 64 (r.extractLsb' 23 6).toNat
    let b := (s.tile t).bay n
    if r.extractLsb' 37 27 = 0 ∧ s.partOf t = some p ∧ b.configured ∧ b.sync ∧ b.st = .ready
        ∧ off % 16 = 0 ∧ off + 16 ≤ b.len then some (t, n, b.start_ false + off)
    else none

/-- A barrier reference as a context uses it: the owner check is made on a bay of its own tile (R185). -/
def State.barRefBy (s : State) (p : PartNo) (t : TileNo) (c : CtxNo) (r : Word) : Option (TileNo × BayNo × Nat) :=
  (s.barRef p r).filter fun q => q.1 != t || ((s.tile t).bay q.2.1).own.getLsbD c.val

/-- Do the tiles' clocks run: in RUN and in the hold-up, unless the package is frozen? -/
def State.clocked (s : State) : Bool := (s.pkg.state == .run || s.pkg.state == .holdUp) && !s.pkg.frozen

/-! ### Scheduling hub steps (R127, R192, R239, R270, R448) -/

/-- The object a hub step of a tile acts on: steps of one context on one object keep their order. A barrier counts
by its place, a Lantern step and an SNGET's start as one object (R239), the starts of COLLs as one (R270). -/
def State.hubTarget (s : State) (ev : Instr) : Option (Nat × Nat) :=
  let bar := fun (t : TileNo) (r : Word) => match (s.partOf t).bind fun p => s.barRef p r with
    | some q => (100 + q.1.val, q.2.2)
    | none => (40, r.toNat)
  match ev with
  | .signalStep _ p a _ => some (p.val, a.toNat)
  | .waitRegistration _ _ p _ false o _ => some (p.val, o.toNat)
  | .waitRegistration t _ _ _ true o _ => some (bar t o)
  | .barrierReferenceStep t _ _ _ r => some (bar t r)
  | .taskTableStep .. => some (41, 0)
  | .tspawnCheck .. => some (41, 1)
  | .lanternStep .. => some (42, 0)
  | .copyStart t id => match (((s.tile t).cmds.find? fun k => k.id == id).map fun k => k.ins.ins : Option Instr) with
    | some (.snget ..) => some (42, 0)
    | some (.collAllreduce ..) | some (.collRedscat ..) | some (.collAllgath ..) | some (.collBcast ..) => some (43, 0)
    | _ => some (300 + t.val, id)
  | _ => none

/-- What keeps a step in its context's issue order: the sync operations of a context, its signals, its registrations and
its operations by reference among them, keep one order whatever their objects (R284, R192); any other step the order of its
object. -/
def State.orderOf (s : State) (ev : Instr) : Option (Nat × Nat) :=
  match ev with
  | .signalStep (.tsig ..) .. => some (44, 0)
  | .waitRegistration .. => some (44, 0)
  | .barrierReferenceStep _ _ _ (.lower ..) _ => s.hubTarget ev
  | .barrierReferenceStep _ _ _ (.abandon ..) _ => s.hubTarget ev
  | .barrierReferenceStep .. => some (44, 0)
  | _ => s.hubTarget ev

/-- The latest tick at which an earlier step of a context that stays before one is due. -/
def State.latest (s : State) (key : Nat) (ev : Instr) : Nat :=
  match s.orderOf ev with
  | none => 0
  | some o => s.agenda.foldl (fun m d => if d.key = key ∧ s.orderOf d.ev = some o then max m d.at_ else m) 0

/-- Schedule a context's hub step within `hi` nanoseconds, behind its earlier steps of the same order. -/
def State.hub (s : State) (t : TileNo) (c : CtxNo) (lo hi : Nat) (ev : Instr) : State :=
  let key := orderKey t c
  (s.schedAt (max (s.now + s.delay (nanos lo) (nanos hi)) (s.latest key ev)) key ev).drew

/-! ### Signal objects (R121 to R123) -/

/-- A signal object where its address is aligned and translates for a write: its home. -/
def State.signalHome (s : State) (p : PartNo) (a : Word) : Except Nat Home :=
  if a.toNat % 16 ≠ 0 then .error 20
  else match s.translate p a.toNat true with
    | .ok h => .ok h
    | .error _ => .error 7

def State.readQ (s : State) (h : Home) : Word := BitVec.ofNat 64 (natOfBytes (s.homeRead h 8))
def State.writeQ (s : State) (h : Home) (v : Word) : State := s.homeWrite h (bytesOfNat 8 v.toNat)

/-- WCNT and WHEAD of a signal object's second word. -/
def sigWcnt (w : Word) : Nat := (w.extractLsb' 24 12).toNat
def sigWhead (w : Word) : Nat := (w.extractLsb' 0 24).toNat
def sigWaiters (w : Word) (n head : Nat) : Word :=
  (w &&& ~~~(0xFFFFFFFFF : Word)) ||| BitVec.ofNat 64 (n % 4096 * 2 ^ 24 + head % 2 ^ 24)

/-- Queues of a partition that wait on a signal look again within 200 ns (R345). -/
def State.rereadSoon (s : State) (p : PartNo) : State :=
  let f := s.funcOf p
  (List.finRange 16).foldl (fun s q =>
    if (s.func f).queues[q].state = .running ∧ (s.func f).queues[q].tail ≠ (s.func f).queues[q].head then
      s.sched 0 (nanos 200) 900 (.waitsReread f q)
    else s) s

/-- The step of R123 at the object: the value rises, and every waiter whose threshold it meets is
enqueued with DONE in the order they joined; the others stay linked. -/
def State.signalAt (s : State) (p : PartNo) (a addend : Word) : Except Nat State :=
  match s.signalHome p a with
  | .error e => .error e
  | .ok h =>
    let s0 := s.makeSync p a.toNat h none
    let v := s0.readQ h + addend
    let w := s0.readQ (h.add 8)
    let ws := s0.chain p (sigWhead w) (sigWcnt w)
    let met := ws.filter fun i => match s0.cont? p i with
      | some k => decide (k.threshold.toNat ≤ v.toNat)
      | none => false
    let rest := ws.filter fun i => !met.contains i
    let s1 := ((s0.writeQ h v).writeQ (h.add 8) (sigWaiters w rest.length (rest.headD 0))).markDirty p a.toNat 16
    let s2 := s1.relink p rest
    .ok ((met.foldl (fun s i => s.enqueue p i 0) s2).rereadSoon p)

/-- The registration of R122 at a signal object, or an enqueue with FAULT. -/
def State.registerSignal (s : State) (p : PartNo) (i : Nat) (a threshold : Word) : State :=
  match s.signalHome p a with
  | .error _ => s.enqueue p i 2
  | .ok h =>
    let s0 := s.makeSync p a.toNat h none
    let w := s0.readQ (h.add 8)
    if threshold.toNat ≤ (s0.readQ h).toNat then s0.enqueue p i 0
    else if 4095 ≤ sigWcnt w then s0.enqueue p i 2
    else
      let ws := s0.chain p (sigWhead w) (sigWcnt w) ++ [i]
      ((s0.writeQ (h.add 8) (sigWaiters w ws.length (ws.headD 0))).onCont p i
        fun k => { k with threshold := threshold }).relink p ws

/-- The registration of R120 at a barrier, or an enqueue with FAULT. A waiter past 4,095 cannot be
counted in WCNT and is enqueued with FAULT as at a signal object (log 21). -/
def State.registerBarrier (s : State) (p : PartNo) (i : Nat) (r gen : Word) : State :=
  match s.barRef p r with
  | none => s.enqueue p i 2
  | some (t, _, o) =>
    let b := s.bar t o
    if barGen b ≠ gen.toNat % 16 then s.enqueue p i 0
    else if 4095 ≤ barWcnt b then s.enqueue p i 2
    else
      let ws := s.chain p (barWhead b) (barWcnt b) ++ [i]
      (s.setBar t o (barSet (barSet b 92 12 ws.length) 68 24 (ws.headD 0))).relink p ws

end Sys2Proof.Machine
end

