-- ==== Sys2Proof/Machine/Segment.lean ====
section
/-! DEFINITION. Segments (R317 to R320): entries and their commit, held effects and their release,
the undo log, exposure. -/

namespace Sys2Proof.Machine

/-! ### Kinds of access (R204, R285) -/

/-- The instructions that count in LD. -/
def countsLd : Instr → Bool
  | .gld .. | .gldc .. | .gldv .. | .gatom .. | .gcas .. | .acq .. | .acqs .. | .bind .. | .unbind ..
  | .gprobe .. => true
  | _ => false

/-- The data stores, which are held until their segment commits (R318). -/
def isGStore : Instr → Bool
  | .gst .. | .gstc .. | .gstv .. => true
  | _ => false

/-- The sync operations of R208. -/
def isSyncOp : Instr → Bool
  | .gatom .. | .gcas .. | .acq .. | .acqs .. | .rel .. | .bind .. | .unbind .. => true
  | _ => false

def isAcquire : Instr → Bool
  | .acq .. | .acqs .. => true
  | _ => false

def isRel : Instr → Bool
  | .rel .. => true
  | _ => false

def isFence : Instr → Bool
  | .gfence _ => true
  | _ => false

/-- The bytes an access reads or writes. -/
def GAcc.range (g : GAcc) : Nat × Nat :=
  let a := g.ea.toNat
  match g.ins.ins with
  | .gld _ sz _ _ => (a, Size.bytes sz)
  | .gldc _ sz _ _ => (a, Size.bytes sz)
  | .gst sz _ _ => (a, Size.bytes sz)
  | .gstc sz _ _ => (a, Size.bytes sz)
  | .gldv _ _ => (a, 4096)
  | .gstv _ _ => (a, 4096)
  | .ginv _ _ => (a, min g.data.toNat (2 ^ 52 - a))
  | .gwb _ _ => (a, min g.data.toNat (2 ^ 52 - a))
  | .gprobe _ _ => (a, 0)
  | .gfence _ => (a, 0)
  | _ => (a, 8)

/-- Do two ranges share a byte? -/
def meets (p q : Nat × Nat) : Bool := decide (p.1 < q.1 + q.2 ∧ q.1 < p.1 + p.2)

/-- Is a page that an access touches under a flip, so that the access waits for it (R299)? -/
def State.flipping (s : State) (p : PartNo) (q : Nat × Nat) : Bool :=
  (s.part p).jobs.any fun j => j.flip && meets (j.va, if j.big then 2 ^ 21 else 2 ^ 16) q

/-- Does the table of R285 order an access before a later one of its context? An ACQS counts as taken
while it is not known not to be. -/
def GAcc.before (a b : GAcc) : Bool :=
  meets a.range b.range || (isSyncOp a.ins.ins && isSyncOp b.ins.ins) || isRel b.ins.ins
    || isAcquire a.ins.ins || isFence a.ins.ins || isFence b.ins.ins

/-! ### Releasing held effects (R318) -/

/-- Bytes of a context stored through its L1; a page that no longer translates takes nothing. -/
def State.storeBytes (s : State) (t : TileNo) (c : CtxNo) (a : Nat) (bs : List Byte) : State :=
  match s.partOf t with
  | none => s
  | some p => (piecesOf a bs.length).foldl (fun s q => match s.translate p q.1 true with
    | .ok h => s.storeLine t c p q.1 ((bs.drop (q.1 - a)).take q.2) h
    | .error _ => s) s

def Tile.cmd? (x : Tile) (id : Nat) : Option Cmd := x.cmds.find? fun k => k.id == id
def Tile.onCmd (x : Tile) (id : Nat) (f : Cmd → Cmd) : Tile :=
  { x with cmds := x.cmds.map fun k => if k.id = id then f k else k }
def Tile.dropCmd (x : Tile) (id : Nat) : Tile := { x with cmds := x.cmds.filter fun k => k.id != id }

/-- The longest a start of an engine command may take where the manual gives no bound (log 16). -/
def engineNs : Nat := 100000

/-- The longest a Lantern step may take: the walk of R253 and what waits before it (log 16). -/
def lanternNs : LanOp → Nat
  | .find _ _ run _ => engineNs + 44 * (run.length / 16 + 1)
  | _ => engineNs

/-- The bounds of a released step, in nanoseconds (R125, R448, log 16). -/
def stepBound (t : TileNo) (clock : Nat) : Instr → Nat × Nat
  | .barrierReferenceStep _ _ _ _ r =>
    (0, if (r.extractLsb' 29 8).toNat / 4 = t.val / 4 then 100 else 150)
  | .lanternStep _ _ _ op => (0, lanternNs op)
  | .tspawnCheck .. => (64 * clock / ticksPerNs + 1, 64 * clock / ticksPerNs + 1000)
  | _ => (0, 150)

/-- A held command is held no longer. -/
def Cmd.release (k : Cmd) : Cmd := match k.stat with
  | .held => { k with stat := .issued }
  | _ => k

/-- Is a command an MCMT or an MABT, which act within 100 clocks (R224)? -/
def Cmd.journals (k : Cmd) : Bool :=
  match k.ins.ins with
  | .mcmt _ => true
  | .mabt _ => true
  | _ => false

/-- The bounds of a released step of a tile. -/
def State.boundOf (s : State) (t : TileNo) (ev : Instr) : Nat × Nat :=
  let clock := s.tilePeriod t
  match ev with
  | .copyStart _ id =>
    if ((s.tile t).cmd? id).elim false Cmd.journals then (0, 100 * clock / ticksPerNs) else (0, engineNs)
  | _ => stepBound t clock ev

/-- Has a command still to read from its source? -/
def Cmd.unread (k : Cmd) : Bool := k.stat == .held || k.stat == .issued || k.stat == .started

/-- A context's read of a range of the partition, line by line, without moving a line. -/
def State.peekBytes (s : State) (t : TileNo) (p : PartNo) (a n : Nat) : List Byte :=
  (piecesOf a n).flatMap fun q => match s.translate p q.1 false with
    | .ok h => s.peekLine t p q.1 q.2 h
    | .error _ => List.replicate q.2 0

/-- The bytes that a store of a context is about to change, kept for the commands that the context issued before the store
and that have still to read their source: a source reads as at the command's issue (R293). -/
def State.keepUnder (s : State) (t : TileNo) (c : CtxNo) (id ea n : Nat) : State :=
  match s.partOf t with
  | none => s
  | some p =>
    if (s.tile t).cmds.any fun k => k.ctx == c && decide (k.id < id) && k.unread then
      let old := s.peekBytes t p ea n
      s.onTile t fun x => { x with cmds := x.cmds.map fun k =>
        if k.ctx = c ∧ k.id < id ∧ k.unread then { k with under := k.under ++ [(ea, old)] } else k }
    else s

/-- A held effect goes out: a store into L1, a step to the hub. -/
def State.releaseOne (s : State) (t : TileNo) (c : CtxNo) (h : Hold) : State :=
  match h.kind with
  | .store id ea bs _ => (s.keepUnder t c id ea bs.length).storeBytes t c ea bs
  | .step ev =>
    let s1 := match ev with
      | .copyStart _ id => s.onTile t fun x => x.onCmd id Cmd.release
      | _ => s
    let b := s.boundOf t ev
    s1.hub t c b.1 b.2 ev

/-- The number of the most recent committed entry. -/
def Ctx.committedSeg (x : Ctx) : Nat := x.segs.foldl (fun m e => if e.committed then max m e.seg else m) 0

/-- Is the segment of a held effect exposed or committed, so that it may go out (R318, R320)? -/
def Ctx.mayLeave (x : Ctx) (h : Hold) : Bool := decide (h.seg < x.freed) || decide (h.seg < x.committedSeg)

/-- Is a sync operation of a context that was issued before the identity `id` not done? -/
def Ctx.syncBefore (x : Ctx) (id : Nat) : Bool :=
  (((x.frame.map (·.pend)).getD []) ++ ((x.reinject.map (·.pend)).getD []) ++ x.gaccs).any fun g =>
    decide (g.id < id) && isSyncOp g.ins.ins && g.stat != .done

/-- Is a store of a context that was issued before the identity `id` not accepted? -/
def Ctx.storeBefore (x : Ctx) (id : Nat) : Bool :=
  (((x.frame.map (·.pend)).getD []) ++ ((x.reinject.map (·.pend)).getD []) ++ x.gaccs).any fun g =>
    decide (g.id < id) && isGStore g.ins.ins && g.stat != .done

/-- Is a step a sync operation of its context, which R284 keeps in issue order with those of the G slot? -/
def isSyncStep : Instr → Bool
  | .signalStep (.tsig ..) .. => true
  | _ => false

/-- May an effect go out now: a store once it has passed translation, a step once what stands before it in the hold
has gone (`stuck` tells that it has not), a signal behind the sync operations before it? -/
def Ctx.releasable (x : Ctx) (stuck : Bool) (h : Hold) : Bool :=
  x.mayLeave h && match h.kind with
    | .store _ _ _ acc => acc
    | .step ev => !stuck && !(isSyncStep ev && x.syncBefore h.after)

/-- Is a held effect a store to a host-bias page? -/
def State.toHost (s : State) (t : TileNo) (h : Hold) : Bool :=
  match h.kind, s.partOf t with
  | .store _ ea bs _, some p => (piecesOf ea bs.length).any fun q => match s.translate p q.1 true with
    | .ok (.host _) => true
    | _ => false
  | _, _ => false

/-- Held effects go out in issue order, as far as they may: a store that has passed translation does not wait for one
that has not, since R285 orders them only where they meet, but for stores to host-bias pages, which stay in issue order
(R297); a step waits for every store before it (R128). -/
def State.drainHold (s : State) (t : TileNo) (c : CtxNo) (kept : List Hold) : List Hold → State
  | [] => s.onCtx t c fun x => { x with hold := kept }
  | h :: hs =>
    if (s.ctxAt t c).releasable (!kept.isEmpty) h && !(s.toHost t h && kept.any (s.toHost t)) then (s.releaseOne t c h).drainHold t c kept hs
    else s.drainHold t c (kept ++ [h]) hs

def State.drain (s : State) (t : TileNo) (c : CtxNo) : State := s.drainHold t c [] (s.ctxAt t c).hold

/-- A segment becomes exposed (R320): what the context holds goes out and its undo entries are freed. -/
def State.expose (s : State) (t : TileNo) (c : CtxNo) : State :=
  if (s.ctxAt t c).exposed then s
  else
    let s1 := s.onTile t fun x =>
      let k := x.ctxs[c]
      ({ x with undo := x.undo.filter fun u => u.ctx != c }).setCtx c { k with exposed := true, freed := k.seg + 1 }
    s1.drain t c

/-- The hold entries in use. -/
def Ctx.holdUsed (x : Ctx) : Nat := (x.hold.map (·.entries)).sum

/-- An effect held until its segment commits; where no entry is free the segment is exposed first. -/
def State.holdEffect (s : State) (t : TileNo) (c : CtxNo) (entries : Nat) (k : HoldKind) : State :=
  let s1 := if 64 < (s.ctxAt t c).holdUsed + entries then s.expose t c else s
  (s1.onCtx t c fun x => { x with hold := x.hold ++ [⟨x.seg, s.nextId, entries, k⟩] }).drain t c

/-- The acting context's effect held, or for the prologue engine let out at once. -/
def State.holdStep (s : State) (entries : Nat) (ev : Instr) : State :=
  match s.cur with
  | .hw t c => s.holdEffect t c entries (.step ev)
  | .gondola => s.sched 0 (nanos 150) 900 ev

/-- The acting context's segment exposed. -/
def State.exposeCur (s : State) : State :=
  match s.cur with
  | .hw t c => s.expose t c
  | .gondola => s

/-! ### The undo log (R319) -/

/-- The bytes a record takes of the 64 KiB log (log 20). -/
def Undo.size (u : Undo) : Nat :=
  match u.kind with
  | .scratch .. => 64
  | .stale .. => 0
  | .bay .. => 8
  | .vreg .. => 4096
  | .rt .. => 4096

/-- Is the entry-time value of a V name or an RT already in the log? -/
def undoHas (l : List Undo) (c : CtxNo) (seg : Nat) : UndoKind → Bool
  | .vreg n _ => l.any fun u => u.ctx == c && u.seg == seg && (match u.kind with
    | .vreg m _ => m == n
    | _ => false)
  | .rt n _ => l.any fun u => u.ctx == c && u.seg == seg && (match u.kind with
    | .rt m _ => m == n
    | _ => false)
  | _ => false

/-- A record joins the log; a log that cannot take it exposes the segment, and an exposed segment
keeps none. -/
def State.logUndo (s : State) (t : TileNo) (c : CtxNo) (k : UndoKind) : State :=
  let x := s.tile t
  let seg := (x.ctxs[c]).seg
  let bad := match k with
    | .scratch a _ _ => x.spPoison.contains (a / 64)
    | .stale a _ _ => x.spPoison.contains (a / 64)
    | _ => false
  let u : Undo := ⟨c, seg, k, bad⟩
  if (x.ctxs[c]).exposed ∨ undoHas x.undo c seg k then s
  else if 65536 < (x.undo.map Undo.size).sum + u.size then s.expose t c
  else s.setTile t { x with undo := x.undo ++ [u] }

/-- The old 64-byte units under a scratchpad write of a context. -/
def State.logScratch (s : State) (t : TileNo) (c : CtxNo) (o n : Nat) : State :=
  (unitsOf o n).foldl (fun s u =>
    s.logUndo t c (.scratch (u * 64) (Mem.readBytes (s.tile t).sp (u * 64) 64) 0)) s

/-- Bytes that an engine or a remote operation wrote keep the newer value in a rollback (R321). -/
def Tile.markNewer (x : Tile) (o n : Nat) : Tile :=
  let mark := fun (a : Nat) (m : BitVec 64) =>
    let lo := max o a
    let hi := min (o + n) (a + 64)
    if lo < hi then m ||| BitVec.ofNat 64 ((2 ^ (hi - lo) - 1) * 2 ^ (lo - a)) else m
  { x with undo := x.undo.map fun u => match u.kind with
    | .scratch a old m => { u with kind := .scratch a old (mark a m) }
    | .stale a old m => { u with kind := .stale a old (mark a m) }
    | _ => u }

/-- Did a context write bytes of a range in a segment not committed? -/
def Tile.wroteIn (x : Tile) (c : CtxNo) (o n : Nat) : Bool :=
  x.undo.any fun u => u.ctx == c && match u.kind with
    | .scratch a _ _ => decide (a < o + n ∧ o < a + 64)
    | _ => false

/-- A read of scratchpad bytes by an agent other than the contexts that wrote them exposes those (R320). -/
def State.readExposes (s : State) (t : TileNo) (reader : Option CtxNo) (o n : Nat) : State :=
  allCtxs.foldl (fun s c => if some c ≠ reader ∧ (s.tile t).wroteIn c o n then s.expose t c else s) s

/-- A scratchpad write of an engine or a remote operation. -/
def State.engineWriteSp (s : State) (t : TileNo) (o : Nat) (bs : List Byte) : State :=
  s.onTile t fun x => (x.writeSp o bs).markNewer o bs.length

/-- A barrier as an agent from elsewhere writes it: newer than any logged write (R321). -/
def State.remoteBar (s : State) (t : TileNo) (o : Nat) (b : BitVec 128) : State :=
  (s.setBar t o b).onTile t fun x => x.markNewer o 16

/-- Is a tile not in RUN, where what arrives for it wakes it and waits (R386, R387; a tile in OFF too, log 90)? -/
def State.asleep (s : State) (t : TileNo) : Bool := (s.tile t).power != .run

/-- How long what waits for a tile to wake waits before it looks again. -/
def State.wakeTick (s : State) (t : TileNo) : Nat :=
  match (s.agenda.find? fun d => d.ev == .tileWake t) with
  | some d => max d.at_ s.now + 1
  | none => s.now + nanos 20

/-- Lower the counts a copy raised at a barrier, and try to complete the phase (R216). The engine reads and writes the
barrier: contexts that wrote it in their segment are exposed (R320), and what it writes is newer (R321). For a tile that is
not in RUN the step waits at the hub (R387). -/
def State.lowerBar (s : State) (p : PartNo) (r : Word) (inn out : Bool) : State :=
  match s.barRef p r with
  | none => s
  | some (t, _, o) =>
    if s.asleep t then
      if inn || out then
        (s.wake t).schedAt ((s.wake t).wakeTick t) (orderKey t 0) (.barrierReferenceStep t 0 0 (.lower inn out) r)
      else s
    else
    let s0 := s.readExposes t none o 16
    let b := s0.bar t o
    let b1 := if inn then barSet b 36 16 (barIn b - 1) else b
    let b2 := if out then barSet b1 52 16 (barOut b1 - 1) else b1
    ((s0.remoteBar t o b2).completeBar p t o).onTile t fun x => x.markNewer o 16

/-! ### Arrival at a scratchpad (R192, R291) -/

/-- Does the clock of a tile run? -/
def State.ticks (s : State) (t : TileNo) : Bool := s.clocked && (s.tile t).power == .run

/-- When what arrives at a tile's scratchpad now is applied: behind the tile's own access of the clock (R291). -/
def State.spTick (s : State) (t : TileNo) : Nat :=
  let x := s.tile t
  if s.ticks t ∧ x.nextAt ≠ s.now + s.tilePeriod t then max x.nextAt s.now else s.now

/-- A context's step put off to a tick, with its later steps on the same object behind it. -/
def State.postpone (s : State) (at_ key : Nat) (ev : Instr) : State :=
  let same := fun (d : Due) => decide (d.key = key ∧ d.at_ ≤ at_) && (s.orderOf ev).isSome && s.orderOf d.ev == s.orderOf ev
  let later := s.agenda.filter same
  later.foldl (fun s d => s.schedAt at_ key d.ev) ({ s with agenda := s.agenda.filter fun d => !same d }.schedAt at_ key ev)

/-- When an operation of a context on a barrier that arrives now is applied, and the state in which its clock is kept
for it: those of different contexts are applied one in a clock, in order of arrival (R192). -/
def State.barTurn (s : State) (t : TileNo) (o key : Nat) : Nat × State :=
  let x := s.tile t
  if s.now < s.spTick t then (s.spTick t, s)
  else if s.asleep t then ((s.wake t).wakeTick t, s.wake t)
  else if !s.ticks t then (s.now, s)
  else
    let live := x.barAt.filter fun (q : Nat × Nat) => decide (x.cycle ≤ q.2)
    let at_ := fun (n : Nat) => s.now + (n - x.cycle) * s.tilePeriod t
    match Map.get? live (o * 1024 + key) with
    | some n => (at_ n, s)
    | none =>
      let n := live.foldl (fun m (q : Nat × Nat) => if q.1 / 1024 = o then max m (q.2 + 1) else m) x.cycle
      (at_ n, s.onTile t fun x => { x with barAt := Map.set live (o * 1024 + key) n })

/-! ### Entries and commits (R317) -/

/-- A segment entry: a checkpoint that commits in 40 clocks. -/
def State.enter (s : State) (t : TileNo) (c : CtxNo) : State :=
  let cyc := (s.tile t).cycle
  s.onCtx t c fun x => { x with
    seg := x.seg + 1, exposed := false,
    segs := x.segs ++ [⟨x.seg + 1, cyc + 40, false, x.exposed, s.nextId, x.regs, x.frame, x.reinject⟩] }

/-- Entries due commit: older checkpoints and the undo entries of the segments they end go, and
held effects are released. -/
def State.commitEntries (s : State) (t : TileNo) (c : CtxNo) : State :=
  let x := s.tile t
  let k := x.ctxs[c]
  let segs := k.segs.map fun e => if e.commitAt ≤ x.cycle then { e with committed := true } else e
  let n := segs.foldl (fun m e => if e.committed then max m e.seg else m) 0
  let k1 := { k with
    segs := segs.filter fun e => decide (n ≤ e.seg), tookInts := k.tookInts.filter fun e => decide (n ≤ e.1),
    tookDefer := k.tookDefer.filter fun e => decide (n ≤ e.1), tookDovf := k.tookDovf.filter fun e => decide (n ≤ e.1) }
  let x1 := { x with undo := x.undo.filter fun u => !(u.ctx == c && decide (u.seg < n)) }
  (s.setTile t (x1.setCtx c k1)).drain t c

/-- Is the drain condition met but for CP (R31)? -/
def State.drainedButCp (s : State) (t : TileNo) (c : CtxNo) : Bool :=
  let x := s.tile t
  let k := x.ctxs[c]
  k.flight.isEmpty && (k.reinject.all fun r => r.latches.isEmpty) && k.regs.tok == 0 && k.af.isEmpty && k.bf.isEmpty && k.mq.isEmpty
    && !x.cmds.any fun m => m.ctx == c && match m.ins.ins with
      | .cfeed .. => true
      | _ => false

/-- The drain condition (R31). -/
def State.drained (s : State) (t : TileNo) (c : CtxNo) : Bool :=
  s.drainedButCp t c && (s.ctxAt t c).regs.cp == 0

end Sys2Proof.Machine
end

