-- ==== Sys2Proof/Machine/EngineOps.lean ====
section
/-! DEFINITION. What engine commands share (R184, R216, R220, R221): how one ends, faults or is
aborted, and the completion of launches (R358). -/

namespace Sys2Proof.Machine

/-! ### Launch completion (R358) -/

/-- A slot's handle: number and generation (R125). -/
def handleOf (slot : Nat) (g : BitVec 8) : Nat := g.toNat * 2 ^ 24 + slot

/-- The handle of the slot a task of a launch runs under. -/
def State.slotHandle (s : State) (p : PartNo) (slot : Nat) : Nat :=
  match Map.get? (s.part p).tasks slot with
  | some x => handleOf slot x.gen
  | none => slot

/-- Look, within this clock, whether a launch is complete. -/
def State.checkLaunch (s : State) (p : PartNo) (slot : Nat) : State :=
  s.schedAt s.now 950 (.launchComplete p slot)

/-! ### The status slots (R220) -/

/-- A copy status slot's word. -/
def statusWord (code : Nat) (crc : BitVec 32) : Word :=
  BitVec.ofNat 64 (crc.toNat * 2 ^ 32 + code * 256 + (if code = 0 then 0 else 2) + 1)

/-- A status slot written in the registers of a context, and in the checkpoints made since the command was issued, which a
rollback does not take back (R300, R321). -/
def Ctx.putSlot (x : Ctx) (seg : Nat) (n : SlotNo) (w : Word) : Ctx :=
  { x with
    regs := { x.regs with slots := x.regs.slots.set n w },
    segs := x.segs.map fun e => if seg < e.seg then { e with regs := { e.regs with slots := e.regs.slots.set n w } } else e }

/-- A command writes its status slot, where its context still runs the task. -/
def State.setStatus (s : State) (t : TileNo) (k : Cmd) (w : Word) : State :=
  match k.slot with
  | none => s
  | some n => s.onCtx t k.ctx fun x => if x.runs k.tid then x.putSlot k.seg n w else x

/-- A PUB that has started looks again, in this clock, whether the copies it covers have ended (R219). -/
def State.wakePubs (s : State) (t : TileNo) : State :=
  (s.tile t).cmds.foldl (fun s k => match k.ins.ins, k.stat with
    | .pub _, .started => s.schedAt s.now (orderKey t k.ctx) (.copyPublish t k.id)
    | _, _ => s) s

/-- The place of a Lantern node with its slot's generation: the low bits of its handle (R232). -/
def nodeKey (slot : Nat) (g : BitVec 8) : Nat := g.toNat * 2 ^ 18 + slot

/-- The generation of a node slot. -/
def Lantern.gen (l : Lantern) (slot : Nat) : BitVec 8 := Map.getD l.ngen slot 0

/-- The transient holds of an SNGET are removed in one step, with no fault at zero (R244). -/
def State.dropTransient (s : State) (t : TileNo) (k : Cmd) : State :=
  match k.ins.ins with
  | .snget .. =>
    let held := fun (n : Nat) => k.cover.contains (nodeKey n (s.lantern.gen n))
    let s1 := { s with lantern := { s.lantern with
      nodes := s.lantern.nodes.map fun (n : Nat × Node) =>
        if held n.1 then (n.1, { n.2 with holds := n.2.holds - 1 }) else n } }
    s1.onTile t fun x => x.onCmd k.id fun k => { k with cover := [] }
  | _ => s

/-- Does a command move its data by one of the tile's two copy engines (R342)? -/
def Cmd.onEngine (k : Cmd) : Bool :=
  match k.ins.ins with
  | .cpy .. | .cpyi .. | .cpys .. | .cpyb .. | .mwr .. | .snget .. => true
  | _ => false

/-- May a command start: an engine is free, and no older command waits for one (R342)? -/
def Tile.engineFree (x : Tile) (k : Cmd) : Bool :=
  decide ((x.cmds.filter fun m => m.onEngine && m.stat == .started).length < 2)
    && !(x.cmds.any fun m => m.onEngine && m.stat == .issued && decide (m.id < k.id))

/-- The oldest command that waits for an engine of a tile looks whether it may start. -/
def State.wakeEngines (s : State) (t : TileNo) : State :=
  match (s.tile t).cmds.find? fun m => m.onEngine && m.stat == .issued with
  | none => s
  | some k =>
    if s.agenda.any fun d => d.ev == .copyStart t k.id then s
    else s.schedAt s.now (orderKey t k.ctx) (.copyStart t k.id)

/-- A command ends with a code: its slot is written, CP falls, and it is gone. A complete DEFER copy has left CP, and
its slot changes only where its publish fails (R228). -/
def State.endCmd (s : State) (t : TileNo) (id code : Nat) (crc : BitVec 32) : State :=
  match (s.tile t).cmd? id with
  | none => s
  | some k =>
    let s0 := s.dropTransient t k
    let s1 := if k.stat = .complete then
        (if code = 0 then s0 else s0.setStatus t k (statusWord code crc))
      else (s0.setStatus t k (statusWord code crc)).dropCp t k.ctx k.tid
    let s2 := ({ s1 with colls := s1.colls.filter fun g => !(g.tile == t && g.cmd == id) }.onTile t
      fun x => x.dropCmd id).wakePubs t |>.wakeEngines t
    match s.partOf t with
    | some p => s2.checkLaunch p (k.origin % 2 ^ 24)
    | none => s2

/-- The opcode of a command, for its deferred record. -/
def opcodeOf (i : Flagged) : Nat :=
  match encodeNat i.ins with
  | w :: _ => opcOf w
  | [] => 0

/-! ### Bays of a command (R184) -/

/-- Does a command fill bay `n` of tile `t`: its own tile's, or that of every tile of a CPYB's range (R218)? -/
def Cmd.fills (k : Cmd) (t : TileNo) (n : BayNo) : Bool :=
  k.dstBay == some n && (k.tiles.isEmpty || k.tiles.contains t.val)

/-- Has a command started, so that its bays have moved? -/
def Cmd.moving (k : Cmd) : Bool := k.stat == .started || k.stat == .read

/-- Is a fill of a bay outstanding: a command of the tile that fills it, or a CPYB of another tile that has started
(R183)? -/
def State.filling (s : State) (t : TileNo) (n : BayNo) : Bool :=
  ((s.tile t).cmds.any fun k => k.fills t n)
    || allTiles.any fun u => u != t && (s.tile u).cmds.any fun k => !k.tiles.isEmpty && k.moving && k.fills t n

/-- Is an engine command outstanding on a bay (R183, R199, R201)? A DEFER copy that is complete and waits for its PUB is not
(R215). -/
def State.bayBusy (s : State) (t : TileNo) (n : BayNo) : Bool :=
  s.filling t n || (s.tile t).cmds.any fun k => k.srcBay == some n && k.stat != .complete

/-- A bay that a command moved goes back to its state before the copy, be it a DEFER copy that faults at its PUB; a CFEED
moves none (R184). -/
def Tile.returnBays (x : Tile) (t : TileNo) (k : Cmd) : Tile :=
  if !k.moving && k.stat != .complete then x
  else match k.ins.ins with
  | .cfeed .. => x
  | _ =>
    let x1 := match k.srcBay with
      | some n => x.onBay n fun b =>
          if b.st = .draining ∨ (k.stat ≠ .started ∧ b.st = .empty) then { b with st := k.srcPrior } else b
      | none => x
    match k.dstBay with
    | some n => if k.fills t n then
        x1.onBay n fun b => if b.st = .filling then { b with st := k.dstPrior } else b
      else x1
    | none => x1

/-- A registration with a barrier that a command still waits for is gone with it (R216). -/
def isRegistration (id : Nat) : Instr → Bool
  | .barrierReferenceStep _ _ _ (.register n _ _) _ => n == id
  | _ => false

/-- A command's steps leave the hold of its context (R318): its start and its registration. -/
def Ctx.dropHeld (x : Ctx) (id : Nat) : Ctx :=
  { x with hold := x.hold.filter fun h => match h.kind with
    | .step (.copyStart _ i) => i != id
    | .step ev => !isRegistration id ev
    | _ => true }

/-- What stopping a command undoes: its bays, the registration it still waits for, and the barrier counts it raised
(R221). -/
def State.unwindCmd (s : State) (t : TileNo) (k : Cmd) : State :=
  let s1 := (s.onTile t fun x =>
    let y := x.returnBays t k
    y.setCtx k.ctx ((y.ctxs[k.ctx]).dropHeld k.id)).dropEvents (isRegistration k.id)
  let s2 := match k.bar, s.partOf t with
    | some r, some p => if k.inn ∨ k.out then s1.lowerBar p r k.inn k.out else s1
    | _, _ => s1
  if k.moving then k.tiles.foldl (fun s n => match tileOf n, k.dstBay with
    | some u, some b => if u = t then s else s.onTile u fun x => x.onBay b fun b =>
        if b.st = .filling then { b with st := .empty } else b
    | _, _ => s) s2
  else s2

/-- A command is stopped and ends with a code. -/
def State.stopCmd (s : State) (t : TileNo) (id code : Nat) : State :=
  match (s.tile t).cmd? id with
  | none => s
  | some k => (s.unwindCmd t k).endCmd t id code 0

/-- A command faults: a deferred record, and CODE FAULTED, or BUSY for Journal Busy (R228). -/
def State.faultCmd (s : State) (t : TileNo) (id detail : Nat) (addr : Word) : State :=
  match (s.tile t).cmd? id with
  | none => s
  | some k =>
    (s.arrive t k.ctx k.tid (defRec detail (opcodeOf k.ins) k.slot addr)).stopCmd t id (if detail = 11 then 6 else 3)

/-- Does an MCMT's apply stand behind its commit record, so that no abort reaches it (R221)? -/
def Cmd.journalled (k : Cmd) : Bool :=
  match k.ins.ins with
  | .mcmt _ => k.stat == .started
  | _ => false

/-- May CABRT abort a command (R221)? -/
def Cmd.abortable (k : Cmd) : Bool := !k.journalled

/-- A command aborted (R221): an MWR discards the open transaction of its context. -/
def State.abortCmd (s : State) (t : TileNo) (id : Nat) : State :=
  match (s.tile t).cmd? id with
  | none => s
  | some k =>
    let s1 := match k.ins.ins with
      | .mwr .. => s.onTile t fun x => match x.journal with
        | some j => if j.owner = k.ctx ∧ j.committing.isNone then { x with journal := none } else x
        | none => x
      | _ => s
    s1.stopCmd t id 2

/-! ### Registrations with a barrier (R216) -/

/-- Raise IN and OUT of a barrier for a command: none where a count would pass 65,535 or the barrier
is SPENT. -/
def raiseBar (b : BitVec 128) (inn out : Bool) : Option (BitVec 128) :=
  if barSpent b || (inn && barIn b == 65535) || (out && barOut b == 65535) then none
  else
    let b1 := if inn then barSet b 36 16 (barIn b + 1) else b
    some (if out then barSet b1 52 16 (barOut b1 + 1) else b1)

end Sys2Proof.Machine
end

