-- ==== Sys2Proof/Machine/Ops.lean ====
section
/-! DEFINITION. The machine-wide operations: partition reset and poison (R323, R324, R365), taking an
exception (R301 to R309) and returning from one (R310, R311). -/

namespace Sys2Proof.Machine

/-! ### Partition reset (R324, R365) -/

/-- A tile of a partition under reset: nothing runs, dirty L1 bytes and the undo log are gone, bays of
launches are released, reservations of banks end. A commit already journalled goes on (R221). -/
def Tile.resetTile (x : Tile) : Tile :=
  { x with
    ctxs := Vector.replicate 4 Ctx.start,
    pool := Vector.replicate 56 ⟨none, 0, 0, 0⟩, home := [], spill := none,
    bays := x.bays.map fun b => if b.launch.isSome then Bay.start else b,
    banks := x.banks.map fun b =>
      { b with resv := [], loading := false, image := if b.loading then none else b.image },
    l1 := [], cmds := [], redo := [], undo := [], vFree := 0, wFree := 0, arrayFree := 0,
    journal := match x.journal with
      | some j => if j.committing.isSome then some j else none
      | none => none }

/-- The flags HELD and BUSY of the time-triggered table cleared (R365). -/
def State.clearTable (s : State) (p : PartNo) : State :=
  let a := (s.part p).ttab
  (List.range 64).foldl (fun s i =>
    match s.hubRead p (a + 64 * i + 24) 1 with
    | some [b] => s.hubWrite p (a + 64 * i + 24) [b &&& 0x9F]
    | _ => s) s

/-- A queue under reset: a RUNNING one goes back to its last completed fence (R365). -/
def Queue.replay (q : Queue) : Queue :=
  if q.state = .running then { q with head := q.fidx, open_ := [] } else { q with open_ := [] }

def Queue.disable (q : Queue) : Queue := { q with state := .disabled, open_ := [] }

/-- The function of a partition under reset; a locked interface goes to ERROR (R378). -/
def Func.resetPart (f : Func) : Func :=
  if f.tdisp = .locked ∨ f.tdisp = .run then { f with tdisp := .error, queues := f.queues.map Queue.disable }
  else { f with queues := f.queues.map Queue.replay }

/-- Holds of a partition's nodes cleared (R250). -/
def State.clearHolds (s : State) (p : PartNo) : State :=
  let own := fun (k : Nat) => match Map.get? s.lantern.trees k with
    | some t => t.part == p
    | none => false
  { s with lantern := { s.lantern with
      nodes := s.lantern.nodes.map fun n => if own n.2.tree then (n.1, { n.2 with holds := 0 }) else n } }

/-- The tables of a partition emptied (R365); a slot in use advances its generation, and CTL fields that the Ballast captured
and no page has taken back yet lose HELD and BUSY as those of the table do. -/
def Partition.empty (x : Partition) : Partition :=
  { x with
    tasks := x.tasks.map fun e => (e.1, if e.2.use.isSome then ⟨e.2.gen + 1, none⟩ else e.2),
    conts := [], timers := [], saves := [], gslots := Vector.replicate 16 none, ttOpen := [],
    ttCtl := x.ttCtl.map fun b => b &&& 0x9F }

/-- A partition reset (R324) with the cause code of its event (R371). -/
def State.resetPartition (s : State) (p : PartNo) (cause : Nat) : State :=
  let f := s.funcOf p
  let s1 := (s.tilesOf p).foldl (fun s t =>
    (((s.tile t).cmds.filter fun k => k.stat != .complete).foldl (fun s k => s.unwindCmd t k) s).onTile t Tile.resetTile) s
  let s2 := ((s1.clearHolds p).onPart p Partition.empty).dropEvents fun e => match e with
    | .lanternStep t _ _ _ => s.partOf t == some p
    | _ => false
  let s3 := (s2.clearTable p).onFunc f Func.resetPart
  let s4 := { s3 with
    colls := s3.colls.filter fun k => k.part != p,
    prologue := match s3.prologue with
      | some g => if g.part = p then none else some g
      | none => none }
  let s5 := (s4.countErr p 5).postPart p 0x002 (BitVec.ofNat 64 cause) true 0 0
  ((List.finRange 40).foldl (fun s k => if (s.clusters[k]).part = some p then s.relevel k else s) s5).serve f

/-- A context that stops for good until its partition is reset. -/
def State.stopCtx (s : State) (t : TileNo) (c : CtxNo) : State := s.onCtx t c fun x => { x with run := .stopped }

/-- A task is poisoned (R323) by a strike or with its tile: it stops at once, and its partition is reset. -/
def State.condemn (s : State) (t : TileNo) (c : CtxNo) : State :=
  match s.partOf t with
  | some p => (s.stopCtx t c).resetPartition p 0
  | none => s.stopCtx t c

/-- A task consumes poison, which ERRC2 counts (R323, R382). -/
def State.poisonTask (s : State) (t : TileNo) (c : CtxNo) : State :=
  (match s.partOf t with
    | some p => s.countErr p 2
    | none => s).condemn t c

/-- The task of a context consumes poison; one that has ended takes its partition with it (R313, R323). -/
def State.poisonTid (s : State) (t : TileNo) (c : CtxNo) (tid : Nat) (p : PartNo) : State :=
  if (s.ctxAt t c).runs tid then s.poisonTask t c else (s.countErr p 2).resetPartition p 0

/-! ### The trap frame in memory (R306, R307, R309) -/

/-- The address of a context's frame area (R301, R369). -/
def State.frameAt (s : State) (t : TileNo) (c : CtxNo) : Nat :=
  match s.partOf t with
  | some p => (s.part p).frameb + (4 * t.val + c.val) * 0x4000
  | none => 0

/-- KIND and DEST of a latch. -/
def Dest.latch : Dest → Nat × Nat
  | .x r => (0, r.val)
  | .a r => (1, r.val)
  | .v r _ => (2, r.val)
  | .cm => (3, 0)
  | .ms _ _ d => (4, d.toNat)

/-- Does a latch take a save slot? -/
def Flight.saved (f : Flight) : Bool := 2 ≤ f.dest.latch.1

/-- A latch entry; its `due` holds REM. -/
def Flight.latchBytes (f : Flight) (save : Nat) : List Byte :=
  let d := f.dest.latch
  bytesOfNat 16 (d.1 * 2 ^ 28 + d.2 * 2 ^ 16 + save + f.slot.val * 2 ^ 33 + f.due * 2 ^ 40
    + f.mnar.toNat * 2 ^ 56 + f.ffl.toNat * 2 ^ 57 + (if d.1 < 2 then f.val.toNat else 0) * 2 ^ 64)

/-- Latches with their save slots in order. -/
def withSlots : Nat → List Flight → List (Flight × Nat)
  | _, [] => []
  | n, f :: fs => if f.saved then (f, n) :: withSlots (n + 1) fs else (f, 0) :: withSlots n fs

/-- The image a save slot keeps of a latch. -/
def Flight.image (f : Flight) : List Byte :=
  match f.dest with
  | .v _ _ => bytesOfNat 4096 f.vec.toNat
  | _ => bytesOfNat 128 (f.vec.extractLsb' 0 1024).toNat

def GStat.code : GStat → Nat
  | .done => 0 | .faulted => 1 | .replay => 2 | .outstanding => 3

/-- The save slot of a pending GLDV or GSTV record: 14, then 15. -/
def isVecAccess : Instr → Bool
  | .gldv .. => true
  | .gstv .. => true
  | _ => false

/-- A pending record (R307). -/
def GAcc.bytes (g : GAcc) (save : Nat) : List Byte :=
  let ws := encode g.ins
  bytesOfNat 4 ((ws.headD 0).toNat) ++ bytesOfNat 4 ((ws.drop 1).headD 0).toNat ++ bytesOfNat 8 g.ea.toNat
    ++ bytesOfNat 8 (if isVecAccess g.ins.ins then save else g.data.toNat)
    ++ bytesOfNat 1 g.stat.code ++ bytesOfNat 1 g.fcode.toNat ++ bytesOfNat 6 g.dlv.toNat

def withVecSlots : Nat → List GAcc → List (GAcc × Nat)
  | _, [] => []
  | n, g :: gs => if isVecAccess g.ins.ins then (g, n) :: withVecSlots (n + 1) gs else (g, 0) :: withVecSlots n gs

/-- A deferred record (R312). -/
def DefRec.bytes (r : DefRec) : List Byte := bytesOfNat 8 (recWord r).toNat ++ bytesOfNat 8 r.addr.toNat

/-- A held instruction in the frame: its words, then LV. -/
def Held.bytes (h : Held) : List Byte :=
  let ws := encode h.ins
  ((List.range 3).flatMap fun i => bytesOfNat 4 ((ws.drop i).headD 0).toNat) ++ bytesOfNat 4 h.lv

/-- A loop level in the frame. -/
def Level.bytes (l : Level) : List Byte :=
  bytesOfNat 8 (l.act.toNat * 2 ^ 63 + (match l.arm with
    | some r => 2 ^ 62 + r.val * 2 ^ 57
    | none => 0) + l.init.toNat * 2 ^ 24 + l.cur.toNat)

/-- The nest in the frame. -/
def nestBytes : Option Nest → List Byte
  | none => bytesOfNat 16 0
  | some n => bytesOfNat 16 (n.pos % 64 + n.complete.toNat * 2 ^ 6 + n.lo.val * 2 ^ 7 + n.hi.val * 2 ^ 10 + n.n * 2 ^ 13)

/-- The pieces of a frame by offset; `pwr` marks one the Ballast writes. REPL is below 64 (log 52). -/
def Frame.pieces (f : Frame) (pwr : Bool) : List (Nat × List Byte) :=
  let lat := withSlots 0 f.latches
  let status := f.latches.length + f.pend.length * 2 ^ 8 + f.defer.length * 2 ^ 16 + f.dovf * 2 ^ 24
    + (f.repl.getD 0) * 2 ^ 32 + f.nondrain.toNat * 2 ^ 40 + f.nest.isSome.toNat * 2 ^ 41 + pwr.toNat * 2 ^ 42
  [(0, bytesOfNat 8 f.cause.toNat), (8, bytesOfNat 8 f.epc.toNat), (0x10, bytesOfNat 8 status),
    (0x18, bytesOfNat 8 f.eclk), (0x40, f.held.toList.flatMap Held.bytes),
    (0xC0, f.levels.toList.flatMap Level.bytes), (0xF0, nestBytes f.nest),
    (0x100, lat.flatMap fun e => e.1.latchBytes e.2)]
  ++ (lat.filter (·.1.saved)).map (fun e => (0xB00 + 128 * e.2, bytesOfNat 128 e.1.mask.toNat))
  ++ [(0x1200, f.defer.flatMap DefRec.bytes),
    (0x1400, (withVecSlots 14 f.pend).flatMap fun e => e.1.bytes e.2)]

/-- The slots of the context save region that a frame uses, with their bytes: the latches' values and the data of vector
accesses (R306, R307). -/
def Frame.saveSlots (f : Frame) : List (Nat × List Byte) :=
  ((withSlots 0 f.latches).filter (·.1.saved)).map (fun e => (e.2, e.1.image))
    ++ ((withVecSlots 14 f.pend).filter fun e => isVecAccess e.1.ins.ins).map fun e => (e.2, bytesOfNat 4096 e.1.vec.toNat)

/-- The context save region (R18) with what a frame keeps there. -/
def Tile.fillRegion (x : Tile) (c : CtxNo) (f : Frame) : Tile :=
  f.saveSlots.foldl (fun x e => x.writeSp (0x540000 + c.val * 0x10000 + 0x1000 * e.1) e.2) x

/-- The frame of a context written to its area, with the tile's L1 lines refreshed, and the values
of its latches and vector accesses to the context save region (R306). -/
def State.writeFrame (s : State) (t : TileNo) (c : CtxNo) (f : Frame) : State :=
  match s.partOf t with
  | none => s
  | some p =>
    let a := s.frameAt t c
    let s1 := (f.pieces false).foldl (fun s e => s.hubWrite p (a + e.1) e.2) s
    let s2 := s1.refresh t [(a, 0x2400)] .part
    s2.onTile t fun x => x.fillRegion c f

/-- A frame's pending records written again after one changed (R307). -/
def State.syncFrame (s : State) (t : TileNo) (c : CtxNo) : State :=
  match s.partOf t, (s.ctxAt t c).frame with
  | some p, some f =>
    (s.hubWrite p (s.frameAt t c) (bytesOfNat 8 f.cause.toNat)).hubWrite p (s.frameAt t c + 0x1400)
      ((withVecSlots 14 f.pend).flatMap fun e => e.1.bytes e.2)
  | _, _ => s

/-! ### Taking an exception (R303 to R305, R308) -/

/-- TCAUSE (R301). -/
def causeWord (c : Cause) (slot : Nat) (ipend : Bool) (arg : Nat) : Word :=
  BitVec.ofNat 64 (arg * 2 ^ 20 + ipend.toNat * 2 ^ 19 + slot * 2 ^ 16 + c.code)

/-- The handler's address: TVEC.WOFF in the bank the context runs in (R301). -/
def Regs.handler (g : Regs) : Word := (g.pc &&& 0x8000) ||| (g.tvec &&& 0x7FFC)

/-- Every level inactive and every held instruction NOP (R67, R304). DESIGN CHOICE (log 79): the arms of LBRK are
cleared with ACT, since R114 keeps them in the frame with the nest and R304 names no state of them at the handler's
door. -/
def Regs.clearSeq (g : Regs) : Regs :=
  { g with
    lcs := g.lcs.map fun l => { l with act := false, arm := none }, nest := none,
    held := Vector.replicate 8 Held.nop, rep := none }

/-- The words at the PC that a bundle may take, to the end of its bank at most (R63, R102). -/
def State.fetchWords (s : State) (t : TileNo) (pc : Word) : List HWord :=
  let b : Bank := (s.tile t).banks[Fin.ofNat 2 (pc.toNat / 0x8000)]
  let o := pc.toNat % 0x8000
  wordsOfBytes (Mem.readBytes b.mem o (min 100 (0x8000 - o)))

/-- The bundle a context would issue next: from the loop buffer in a later pass of a nest (R112), else from
the bank its PC names. -/
def State.fetch (s : State) (t : TileNo) (c : CtxNo) : Except (EncFault × Fin 8) Bundle :=
  let g := (s.ctxAt t c).regs
  let bank := decodeBundle (g.priv == .S) (s.fetchWords t g.pc)
  match g.nest with
  | some n => if n.complete then (match n.body[n.pos]? with
      | some b => .ok b
      | none => bank) else bank
  | none => bank

/-- Is a bundle before its first repetition: none has issued, or a precise fault of the first is behind it and all are
still to issue (R69)? -/
def Regs.atFirst (g : Regs) (b : Bundle) : Bool := g.rep.isNone || g.rep == some (b.rep + 1)

/-- Is the bundle at the PC a drain point: a D bundle before its first repetition, with the drain
condition met (R31, R68)? -/
def State.atDrain (s : State) (t : TileNo) (c : CtxNo) : Bool :=
  s.drained t c && match s.fetch t c with
    | .ok b => b.d && (s.ctxAt t c).regs.atFirst b
    | .error _ => false

/-- The latches of a context at a boundary: those ERET left, then the results in flight, each with
REM in `due`, in issue order (R403). -/
def Ctx.latches (x : Ctx) (now : Nat) : List Flight :=
  (match x.reinject with
    | some r => r.latches
    | none => []) ++ x.flight.map fun f => { f with due := f.due - now }

/-- A vector result whose physical register its name has lost writes nothing any more (R146): its latch
obeys an empty mask (log 30). -/
def Tile.keepsName (x : Tile) (c : CtxNo) (f : Flight) : Flight :=
  match f.dest with
  | .v r pv => if (x.ctxs[c]).regs.vmap[r] = .mapped pv then f else { f with mask := 0 }
  | _ => f

/-- The pending records of a context at a boundary (R307). -/
def Ctx.pendings (x : Ctx) : List GAcc :=
  (match x.reinject with
    | some r => r.pend
    | none => []) ++ x.gaccs

/-- TCAUSE has named the earliest unreported fault (R308, R310). -/
def markDlv : List GAcc → List GAcc
  | [] => []
  | g :: gs => if g.stat = .faulted ∧ !g.dlv then { g with dlv := true } :: gs else g :: markDlv gs

/-- A double fault: the context stops and its partition is reset (R305). -/
def State.doubleFault (s : State) (t : TileNo) (c : CtxNo) : State :=
  match s.partOf t with
  | some p => (s.stopCtx t c).resetPartition p 1
  | none => s.stopCtx t c

/-- Does a context's frame area take a frame: mapped, writable, not poisoned (R305)? -/
def State.frameOk (s : State) (t : TileNo) (c : CtxNo) : Bool :=
  match s.partOf t with
  | some p => s.canWrite p (s.frameAt t c) 0x4000 && !s.hubPoison p (s.frameAt t c) 0x4000
  | none => false

/-- The frame of an entry: TCAUSE, TEPC, and what the entry records. REPL is the repetitions left as the context holds them:
none, and so 0, before the first of a bundle (DESIGN CHOICE, log 52). -/
def State.newFrame (s : State) (t : TileNo) (c : CtxNo) (cause : Word) (epc : Word) (report engine : Bool) : Frame :=
  let x := s.ctxAt t c
  { cause := cause, epc := epc, eclk := (s.tile t).cycle, held := x.regs.held, repl := x.regs.rep,
    nondrain := !s.atDrain t c, levels := x.regs.lcs, nest := x.regs.nest,
    latches := { x with flight := x.flight.map ((s.tile t).keepsName c) }.latches (s.tile t).cycle,
    pend := if report then markDlv x.pendings else x.pendings,
    defer := if engine then x.dq else [], dovf := if engine then x.dovf else 0, handlerIssued := false }

/-- The context at the handler's door (R304). -/
def Ctx.entered (x : Ctx) (f : Frame) (now : Nat) : Ctx :=
  let g := x.regs.clearSeq
  { x with
    regs := { g with
      tepc := f.epc, tcause := f.cause, pprv := x.regs.priv == .S, priv := .S, pc := x.regs.handler,
      ld := 0, st := 0 },
    flight := [], gaccs := [], reinject := none, frame := some f, resumeAt := now + 32,
    dq := x.dq.drop f.defer.length, tookDefer := x.tookDefer ++ f.defer.map fun r => (x.seg, r),
    tookDovf := if f.dovf = 0 then x.tookDovf else x.tookDovf ++ [(x.seg, f.dovf)],
    dovf := if f.cause.extractLsb' 0 8 = 0x30 then 0 else x.dovf,
    afterIssue := none, npc := none, yielded := false, reached := false, commitWait := false, atEntry := false }

/-- Taking an exception: the one entry of R304. `report` marks a G access fault as named by TCAUSE,
`engine` moves the deferred faults into the frame. With a frame live, or with no frame area, it is
a double fault. -/
def State.takeTrap (s : State) (t : TileNo) (c : CtxNo) (cause : Cause) (slot arg : Nat) (epc : Word)
    (report engine : Bool) : State :=
  if (s.ctxAt t c).frame.isSome ∨ !s.frameOk t c then s.doubleFault t c
  else
    let f := s.newFrame t c (causeWord cause slot false arg) epc report engine
    (s.writeFrame t c f).onCtx t c fun x => x.entered f (s.tile t).cycle

/-- The trap of an issue check or an encoding fault of the acting context; a prologue that raises
one ends with PROLOGUE_FAULT (R348). -/
def State.trapCur (s : State) (cause : Cause) : State :=
  match s.cur with
  | .hw t c => s.takeTrap t c cause s.slot.index.val 0 (s.ctxAt t c).regs.pc false false
  | .gondola => { s with prologue := s.prologue.map fun g => { g with ended := true, fault := true } }

/-- Software Trap or System Call, taken at the boundary after its bundle (R136, R303). -/
def State.takeAfter (s : State) (t : TileNo) (c : CtxNo) : State :=
  match (s.ctxAt t c).afterIssue with
  | some (cause, arg) =>
    let x := s.ctxAt t c
    s.takeTrap t c cause 0 arg.toNat (x.npc.getD x.regs.pc) false false
  | none => s

/-! ### Returning (R310, R311) -/

/-- Is a record outstanding, so that ERET waits? -/
def Frame.waits (f : Frame) : Bool := f.pend.any fun g => g.stat == .outstanding

/-- The earliest fault not yet reported. -/
def Frame.unreported (f : Frame) : Option GAcc := f.pend.find? fun g => g.stat == .faulted && !g.dlv

/-- The handler entered again with the same frame for a fault not yet reported (R310). -/
def Ctx.reenter (x : Ctx) (f : Frame) (g : GAcc) (now : Nat) : Ctx :=
  let ip := f.cause.getLsbD 19
  let w := BitVec.ofNat 64 (ip.toNat * 2 ^ 19 + 6 * 2 ^ 16 + g.fcode.toNat)
  { x with
    regs := { x.regs with tcause := w, pc := x.regs.handler, held := Vector.replicate 8 Held.nop },
    frame := some { f with cause := w, pend := markDlv f.pend }, resumeAt := now + 32, npc := none }

/-- The return with a live frame: sequencer, held instructions and repetitions come back, the latches
and the records wait for the bundle at TEPC (R310). -/
def Ctx.returned (x : Ctx) (f : Frame) (now : Nat) : Ctx :=
  { x with
    regs := { x.regs with
      held := f.held, rep := f.repl, lcs := f.levels, nest := f.nest, pc := x.regs.tepc,
      priv := if x.regs.pprv then .S else .U },
    frame := none, reinject := some ⟨f.latches, f.pend⟩, resumeAt := now + 48, npc := none }

/-- The return with no frame live (R311). -/
def Ctx.returnedBare (x : Ctx) (now : Nat) : Ctx :=
  { x with
    regs := { x.regs with
      held := Vector.replicate 8 Held.nop, pc := x.regs.tepc, priv := if x.regs.pprv then .S else .U },
    resumeAt := now + 48, npc := none }

/-- Return from exception. -/
def State.returnTrap (s : State) (t : TileNo) (c : CtxNo) : State :=
  let now := (s.tile t).cycle
  match (s.ctxAt t c).frame with
  | none => s.onCtx t c fun x => x.returnedBare now
  | some f => match f.unreported with
    | some g => (s.onCtx t c fun x => x.reenter f g now).syncFrame t c
    | none => s.onCtx t c fun x => x.returned f now

end Sys2Proof.Machine
end

