-- ==== Sys2Proof/Machine/Operands.lean ====
section
/-! DEFINITION. Operand forms and what every issue shares: the registers an instruction names, the
scoreboard (R75), the checks of bays and locators (R183 to R189, R212), rename spills and fills
(R16), and the outcome of an issue (R72 to R75). -/

namespace Sys2Proof.Machine

/-! ### The registers an instruction names -/

def amovX : AmovOp → List XReg
  | .toA _ a => [a]
  | .fromA d _ => [d]
  | .aToA _ _ => []

def vorxX : VOrX → List XReg
  | .v _ => []
  | .x r => [r]

def vamtX : VAmt → List XReg
  | .imm _ => []
  | .reg r => [r]

/-- Bits of a live mask as names. -/
def liveXs (l : Live) : List XReg := (List.finRange 32).filter fun r => l.x.getLsbD r.val
def liveAs (l : Live) : List AReg := (List.finRange 16).filter fun r => l.a.getLsbD r.val
def liveVs (l : Live) : List VReg := (List.finRange 32).filter fun r => l.v.getLsbD r.val

/-- The X registers an instruction reads or writes (R75). -/
def insXs : Instr → List XReg
  | .br _ a b _ => [a, b] | .bri a => [a] | .call d _ => [d] | .calli d a => [d, a] | .ret a => [a]
  | .lset _ a _ => [a] | .waitb s a g l => [s, a, g] ++ liveXs l
  | .tcont s a b l => [s, a, b] ++ liveXs l
  | .tspawn d a b _ => [d, a, b] | .tsig a b _ => [a, b] | .tdep a _ => [a] | .banksw a => [a]
  | .tarm d t a b _ => [d, t, a, b]
  | .add d a b => [d, a, b] | .sub d a b => [d, a, b] | .addi d a _ => [d, a] | .mul d a b => [d, a, b]
  | .mulh d a b => [d, a, b] | .fcmp _ d a b => [d, a, b] | .div d a b => [d, a, b]
  | .divu d a b => [d, a, b] | .rem d a b => [d, a, b] | .fcvt _ d a => [d, a] | .and d a b => [d, a, b]
  | .or d a b => [d, a, b] | .xor d a b => [d, a, b] | .shl d a b => [d, a, b] | .shr d a b => [d, a, b]
  | .sar d a b => [d, a, b] | .min d a b => [d, a, b] | .max d a b => [d, a, b] | .slt d a b => [d, a, b]
  | .sltu d a b => [d, a, b] | .sel d a b c => [d, a, b, c] | .bfx d a b c => [d, a, b, c]
  | .bfi d a b c => [d, a, b, c] | .clz d a => [d, a] | .popc d a => [d, a] | .li d _ => [d]
  | .amov op => amovX op | .fadd d a b => [d, a, b] | .fmul d a b => [d, a, b]
  | .ffma d a b c => [d, a, b, c]
  | .vaddF _ _ b => vorxX b | .vaddI _ _ b => vorxX b | .vsubF _ _ b => vorxX b | .vsubI _ _ b => vorxX b
  | .vmulF _ _ b => vorxX b | .vmulI _ _ b => vorxX b | .vfmaF _ _ b => vorxX b | .vminF _ _ b => vorxX b
  | .vmaxF _ _ b => vorxX b | .vminI _ _ b => vorxX b | .vmaxI _ _ b => vorxX b | .vand _ _ b => vorxX b
  | .vor _ _ b => vorxX b | .vxor _ _ b => vorxX b | .vshl _ _ b => vorxX b | .vshr _ _ b => vorxX b
  | .vsar _ _ b => vorxX b | .vcmpF _ _ b => vorxX b | .vcmpI _ _ b => vorxX b | .vsel _ _ b => vorxX b
  | .vmov _ b => vorxX b | .vrotr _ _ n => vamtX n | .vrotc _ _ n => vamtX n | .vbcr _ _ n => vamtX n
  | .vbcc _ _ n => vamtX n | .mstat d _ => [d]
  | .patom _ d _ x => [d, x] | .patomR _ d r x => [d, r, x] | .binit x _ _ => [x] | .barv g _ => [g]
  | .barvR g r => [g, r] | .bwait d _ => [d] | .bwaitR d r => [d, r] | .pstsc _ x _ => [x]
  | .pldsc _ _ d _ => [d] | .baycfg d _ (.reg x) => [d, x] | .baycfg d _ _ => [d] | .bayst d _ => [d]
  | .gld _ _ d _ => [d] | .gst _ x _ => [x] | .gatom _ _ d x e => [d, x, e.xa] | .gcas _ d n e => [d, n, e.xa]
  | .acq _ d e => [d, e.xa] | .rel _ _ b e => [b, e.xa] | .acqs _ d b e => [d, b, e.xa]
  | .bind d b c e => [d, b, c, e.xa] | .unbind d e => [d, e.xa] | .ginv n _ => [n] | .gwb n _ => [n]
  | .gldc _ _ d _ => [d] | .gstc _ x _ => [x] | .gprobe d _ => [d]
  | .cpy b s d r _ => [b, s, d, r] | .cpyi b s d _ _ => [b, s, d] | .cfeed n s p _ _ => [n, s, p]
  | .cstat d _ => [d] | .snfind d h r n _ => [d, h, r, n] | .snput d h a n _ => [d, h, a, n]
  | .snget p h d s _ _ _ => [p, h, d, s] | .snrel h => [h] | .snstat d h _ => [d, h] | .snhold h => [h]
  | .collAllreduce b s d _ _ => [b, s, d] | .collRedscat b s d _ _ => [b, s, d]
  | .collAllgath b s d _ _ => [b, s, d] | .collBcast b s d r _ _ => [b, s, d, r]
  | .cgrpJoin d h _ => [d, h] | .cgrpLeave d _ => [d] | .mwr s m n _ _ => [s, m, n] | .mwear d m _ => [d, m]
  | .tilewk a _ => [a] | .tileoff a => [a] | .evpost a _ => [a] | .cpys e s d r _ => [e, s, d, r]
  | .sncfgCreate d r _ _ _ => [d, r] | .sncfgDestroy d h => [d, h] | .sncfgFlush d h => [d, h]
  | .cpyb m s d r _ => [m, s, d, r] | .csrr d _ => [d] | .csrw d a _ => [d, a] | .csrs d a _ => [d, a]
  | .csrc d a _ => [d, a] | .pwrq d a => [d, a]
  | _ => []

def vorxV : VOrX → List VUse
  | .v u => [u]
  | .x _ => []

/-- The V operands an instruction reads, with their last-use bits; the names a wait carries are read
without one. -/
def insReads : Instr → List VUse
  | .vaddF _ a b => a :: vorxV b | .vaddI _ a b => a :: vorxV b | .vsubF _ a b => a :: vorxV b
  | .vsubI _ a b => a :: vorxV b | .vmulF _ a b => a :: vorxV b | .vmulI _ a b => a :: vorxV b
  | .vfmaF d a b => a :: ⟨d, false⟩ :: vorxV b | .vminF _ a b => a :: vorxV b | .vmaxF _ a b => a :: vorxV b
  | .vminI _ a b => a :: vorxV b | .vmaxI _ a b => a :: vorxV b | .vabsF _ a => [a] | .vnegF _ a => [a]
  | .vand _ a b => a :: vorxV b | .vor _ a b => a :: vorxV b | .vxor _ a b => a :: vorxV b
  | .vshl _ a b => a :: vorxV b | .vshr _ a b => a :: vorxV b | .vsar _ a b => a :: vorxV b
  | .vcmpF _ a b => a :: vorxV b | .vcmpI _ a b => a :: vorxV b | .vsel _ a b => a :: vorxV b
  | .vmov _ b => vorxV b | .vacc d _ => [⟨d, false⟩] | .vrotr _ a _ => [a] | .vrotc _ a _ => [a]
  | .vbcr _ a _ => [a] | .vbcc _ a _ => [a] | .vredr _ _ a => [a] | .vredc _ _ a => [a] | .vtrn _ a => [a]
  | .vexp2 _ a => [a] | .vlog2 _ a => [a] | .vexp _ a => [a] | .vlog _ a => [a] | .vrcp _ a => [a]
  | .vrsq _ a => [a] | .vtanh _ a => [a] | .vsigm _ a => [a] | .vcvt _ _ a => [a] | .vnarw _ _ a => [a]
  | .vwidn _ _ a => [a] | .mput _ a => [a]
  | .pst v _ => [v] | .pstb v _ _ _ => [v] | .psts v _ _ => [v] | .pldx _ _ i => [i] | .pstx v _ i => [v, i]
  | .pstm v _ => [v] | .gstv v _ => [v]
  | .waitb _ _ _ l => (liveVs l).map fun n => ⟨n, false⟩
  | .tcont _ _ _ l => (liveVs l).map fun n => ⟨n, false⟩
  | _ => []

/-- The V register an instruction writes. -/
def insWrite : Instr → Option VReg
  | .vaddF d _ _ => some d | .vaddI d _ _ => some d | .vsubF d _ _ => some d | .vsubI d _ _ => some d
  | .vmulF d _ _ => some d | .vmulI d _ _ => some d | .vfmaF d _ _ => some d | .vminF d _ _ => some d
  | .vmaxF d _ _ => some d | .vminI d _ _ => some d | .vmaxI d _ _ => some d | .vabsF d _ => some d
  | .vnegF d _ => some d | .vand d _ _ => some d | .vor d _ _ => some d | .vxor d _ _ => some d
  | .vshl d _ _ => some d | .vshr d _ _ => some d | .vsar d _ _ => some d | .vsel d _ _ => some d
  | .vmov d _ => some d | .vacc d _ => some d | .vrdt d _ => some d | .vrotr d _ _ => some d
  | .vrotc d _ _ => some d | .vbcr d _ _ => some d | .vbcc d _ _ => some d | .vredr _ d _ => some d
  | .vredc _ d _ => some d | .vtrn d _ => some d | .vexp2 d _ => some d | .vlog2 d _ => some d
  | .vexp d _ => some d | .vlog d _ => some d | .vrcp d _ => some d | .vrsq d _ => some d
  | .vtanh d _ => some d | .vsigm d _ => some d | .vcvt _ d _ => some d | .vnarw _ d _ => some d
  | .vwidn _ d _ => some d | .pld d _ => some d | .pldb d _ _ _ => some d | .plds d _ _ => some d
  | .pldx d _ _ => some d | .gldv d _ => some d
  | _ => none

/-- Every V name an instruction reads or writes. -/
def insNames (i : Instr) : List VReg := (insReads i).map (·.reg) ++ (insWrite i).toList

/-- The X register a G access writes, if it is one. -/
def insGX : Instr → Option XReg
  | .gld _ _ d _ => some d | .gldc _ _ d _ => some d | .gatom _ _ d _ _ => some d | .gcas _ d _ _ => some d
  | .acq _ d _ => some d | .acqs _ d _ _ => some d | .bind d _ _ _ => some d | .unbind d _ => some d
  | .gprobe d _ => some d
  | _ => none

/-- Does an instruction act at its issue on a barrier of its own tile, or register there (R192, R216)? -/
def actsOnBar : Instr → Bool
  | .barv .. => true
  | .bwait .. => true
  | .binit .. => true
  | .cpy _ _ _ _ c => c.bin || c.bout
  | .cpyi _ _ _ c _ => c.bin || c.bout
  | .cpys _ _ _ _ c => c.bin || c.bout
  | .cpyb _ _ _ _ c => c.bin || c.bout
  | .collAllreduce _ _ _ c _ => c.bin || c.bout
  | .collRedscat _ _ _ c _ => c.bin || c.bout
  | .collAllgath _ _ _ c _ => c.bin || c.bout
  | .collBcast _ _ _ _ c _ => c.bin || c.bout
  | _ => false

/-- Is a held step an operation by reference on a barrier of tile `t`? -/
def refersHere (t : TileNo) : Instr → Bool
  | .barrierReferenceStep _ _ _ (.lower _ _) _ => false
  | .barrierReferenceStep _ _ _ (.abandon _ _) _ => false
  | .barrierReferenceStep _ _ _ _ r => decide ((r.extractLsb' 29 8).toNat = t.val)
  | _ => false

/-- Does an operation by reference on a barrier of the tile stand in the hold behind what cannot leave yet: a store that
has not passed translation, or a signal behind a sync operation? -/
def Ctx.refStuck (x : Ctx) (t : TileNo) : List Hold → Bool
  | [] => false
  | h :: hs => match h.kind with
    | .store _ _ _ false => hs.any fun k => match k.kind with
      | .step ev => refersHere t ev
      | _ => false
    | .step ev => (isSyncStep ev && x.syncBefore h.after && hs.any fun k => match k.kind with
        | .step e => refersHere t e
        | _ => false) || x.refStuck t hs
    | _ => x.refStuck t hs

/-- Must an instruction wait because an earlier operation of its context on a barrier of its tile cannot leave yet (R128,
R192; log 81)? In a handler, which the store may be waiting for, nothing waits. -/
def State.behindRef (s : State) (i : Instr) : Bool :=
  actsOnBar i && s.cx.frame.isNone && s.cx.refStuck s.curTile s.cx.hold

/-- A register that an instruction reads or writes is the destination of a G access not yet written
back (R75, R204), or an operation that R192 orders before it cannot leave yet. -/
def State.scoreboarded (s : State) (i : Instr) : Bool :=
  s.behindRef i || s.cx.gaccs.any fun g => (match insGX g.ins.ins with
    | some r => r != 0 && (insXs i).contains r
    | none => false) || (match g.ins.ins with
    | .gldv d _ => (insNames i).contains d
    | _ => false)

/-- The instruction as held in its slot, with its flags (R76). -/
def State.flagged (s : State) (i : Instr) : Flagged :=
  let h := s.cx.regs.held[s.slot.index]
  if h.ins.ins = i then h.ins else ⟨i, false, false⟩

/-! ### P-slot operands (R183, R185, R187) -/

/-- What an access to a bay is (R183, R185). -/
inductive BayUse | load | store | atomic | barrier | barrierRead
  deriving DecidableEq, Repr

/-- The states of a bay in which an access is admitted (R183). -/
def BayUse.admits : BayUse → BayState → Bool
  | .load, st => st == .ready || st == .draining
  | .barrierRead, st => st == .ready || st == .draining
  | .store, st => st == .ready || st == .empty
  | .atomic, st => st == .ready
  | .barrier, st => st == .ready

/-- The byte offset in the bay a form N instruction with REF = 0 forms (R187). -/
def State.pea (s : State) (l : PLoc) : Nat := (s.a l.ai + l.disp.signExtend 64).toNat

/-- The checks of a form N access at `ea` that touches the byte ranges `spans`: the scratchpad offset
of the bay's visible part, or what the issue meets. -/
def State.bayAccess (s : State) (n : BayNo) (u : BayUse) (ea align : Nat) (spans : List (Nat × Nat)) : Except Issue Nat :=
  let b := s.bay n
  if !b.admits s.curCtx then .error (.trap .bayAccess)
  else if (u = .barrier ∨ u = .barrierRead) ∧ !b.sync then .error (.trap .illegalOperand)
  else if u = .store ∧ b.sync then .error (.trap .syncStore)
  else if ea % align ≠ 0 then .error (.trap .misaligned)
  else if !(spans.all fun q => decide (q.1 + q.2 ≤ b.len)) then .error (.trap .bayBounds)
  else if !u.admits b.st then .error .block
  else .ok (b.start_ false)

/-- A form N access, with what follows where its checks pass. -/
def State.withBay (s : State) (l : PLoc) (u : BayUse) (align : Nat) (spans : Nat → List (Nat × Nat))
    (k : Nat → Issue) : Issue :=
  match s.bayAccess l.bay u (s.pea l) align (spans (s.pea l)) with
  | .error e => e
  | .ok base => k (base + s.pea l)

/-! ### Locators (R212) -/

/-- A bay locator of the issuing tile: its bay and offset. -/
def bayLoc (t : TileNo) (w : Word) : Option (BayNo × Nat) :=
  if w.extractLsb' 37 27 = 0 ∧ (w.extractLsb' 29 8).toNat = t.val then
    some (Fin.ofNat 64 (w.extractLsb' 23 6).toNat, (w.extractLsb' 0 23).toNat)
  else none

/-- A source locator's checks at issue (R183, R185, R212). -/
def State.srcCheck (s : State) (sp : SrcSpace) (w : Word) (k : Issue) : Issue :=
  match sp with
  | .global => if w.toNat < 2 ^ 52 then k else .trap .illegalOperand
  | .mram => if w.toNat < mramProg then k else .trap .illegalOperand
  | .bay => match bayLoc s.curTile w with
    | none => .trap .illegalOperand
    | some (n, _) =>
      let b := s.bay n
      if !b.admits s.curCtx then .trap .bayAccess
      else if b.st = .ready then k else .block

/-- A destination locator's checks at issue. -/
def State.dstCheck (s : State) (sp : DstSpace) (w : Word) (k : Issue) : Issue :=
  match sp with
  | .global => if w.toNat < 2 ^ 52 then k else .trap .illegalOperand
  | .bank => if w.toNat < 2 ^ 16 ∧ w.toNat % 4 = 0 then k else .trap .illegalOperand
  | .bay => match bayLoc s.curTile w with
    | none => .trap .illegalOperand
    | some (n, _) =>
      let b := s.bay n
      if !b.admits s.curCtx then .trap .bayAccess
      else if b.sync then .trap .syncStore
      else if b.shadow then (if b.st = .ready ∧ !s.filling s.curTile n then k else .block)
      else if b.st = .empty then k else .block

/-! ### Rename spills and fills (R16, R17) -/

/-- The physical register to spill: not in flight, not named by the bundle, the one whose last access
is furthest back, the lowest on a tie. -/
def Tile.victim (x : Tile) (c : CtxNo) (names : List VReg) : Option (Fin 56) :=
  let ok := (List.finRange 56).filter fun pv =>
    !x.pvBusy pv && decide ((x.pool[pv]).inUse ≤ x.cycle) && match (x.pool[pv]).owner with
      | some (d, n) => !(d == c && names.contains n)
      | none => false
  match ok with
  | [] => none
  | q :: qs => some (qs.foldl (fun m pv => if (x.pool[pv]).lastAcc < (x.pool[m]).lastAcc then pv else m) q)

/-- A physical register's value moved to its owner's home slot. -/
def Tile.spillPv (x : Tile) (pv : Fin 56) : Tile :=
  match (x.pool[pv]).owner with
  | some (d, n) =>
    let y := { x with home := Map.set x.home (d.val * 32 + n.val) (x.pool[pv]).val }
    (y.onPreg pv fun _ => ⟨none, 0, 0, 0⟩).setName d n .spilled
  | none => x

/-- A spilled name's value moved to a free physical register. -/
def Tile.fillName (x : Tile) (c : CtxNo) (n : VReg) (pv : Fin 56) : Tile :=
  let v := Map.getD x.home (c.val * 32 + n.val) 0
  let y := { x with home := Map.erase x.home (c.val * 32 + n.val) }
  (y.onPreg pv fun _ => ⟨some (c, n), v, x.cycle, 0⟩).setName c n (.mapped pv)

/-- A name's value written at once, as a continuation's or a restored task's is: it becomes MAPPED to a free physical
register, or to one that a spill frees (R16, R33). Where neither is there the name becomes SPILLED, which no rule says
(DESIGN CHOICE, log 96). -/
def Tile.placeName (x : Tile) (c : CtxNo) (n : VReg) (v : VImage) (names : List VReg) : Tile :=
  let y := x.freeName c n
  let put := fun (z : Tile) (pv : Fin 56) => (z.onPreg pv fun _ => ⟨some (c, n), v, z.cycle, 0⟩).setName c n (.mapped pv)
  match y.freePv with
  | some pv => put y pv
  | none => match y.victim c names with
    | some pv => put (y.spillPv pv) pv
    | none => { y with home := Map.set y.home (c.val * 32 + n.val) v }.setName c n .spilled

/-- A context's names written at once: each takes a physical register, and none of them is spilled for another. -/
def Tile.placeNames (x : Tile) (c : CtxNo) (vs : List (VReg × VImage)) : Tile :=
  vs.foldl (fun y v => y.placeName c v.1 v.2 (vs.map (·.1))) x

/-- The vector names of a context put back in the states a map gives them (R33): UNMAPPED, MAPPED to some physical
register, or SPILLED to the home slot. -/
def Tile.restoreNames (x : Tile) (c : CtxNo) (was : Vector VName 32) (vs : List (VReg × VImage)) : Tile :=
  let spilled := fun (n : VReg) => was[n] == .spilled
  let y := (vs.filter fun v => spilled v.1).foldl (fun y v =>
    { y.freeName c v.1 with home := Map.set (y.freeName c v.1).home (c.val * 32 + v.1.val) v.2 }.setName c v.1 .spilled) x
  y.placeNames c (vs.filter fun v => !spilled v.1)

/-- The first spilled name among those a bundle names. -/
def Tile.spilledIn (x : Tile) (c : CtxNo) (names : List VReg) : Option VReg :=
  names.find? fun n => (x.ctxs[c]).regs.vmap[n] == .spilled

/-- The unmapped names a bundle writes. -/
def Tile.unmappedIn (x : Tile) (c : CtxNo) (dsts : List VReg) : List VReg :=
  (dsts.eraseDups).filter fun n => (x.ctxs[c]).regs.vmap[n] == .unmapped

/-- Does a bundle need a spill or a fill first? -/
def Tile.needsMove (x : Tile) (c : CtxNo) (names dsts : List VReg) : Bool :=
  (x.spilledIn c names).isSome
    || decide (((List.finRange 56).filter x.pvFree).length < (x.unmappedIn c dsts).length)

/-- Start the move a bundle needs: a fill, a spill, or a spill and then a fill, 8 clocks each; the
event RENAME_SPILL ends it. With no victim the bundle waits. -/
def Tile.startMove (x : Tile) (c : CtxNo) (names : List VReg) : Tile :=
  match x.spilledIn c names, x.freePv with
  | some n, some pv => { x.fillName c n pv with spill := some (x.cycle + 8) }
  | some n, none => match x.victim c names with
    | some pv => { (x.spillPv pv).fillName c n pv with spill := some (x.cycle + 16) }
    | none => x
  | none, _ => match x.victim c names with
    | some pv => { x.spillPv pv with spill := some (x.cycle + 8) }
    | none => x

/-- A vector write's destination at issue: its value logged for rollback (R319), its physical register
fixed (R146). -/
def State.claimV (r s : State) (d : VReg) : Option (State × Fin 56) :=
  let r0 := match s.cur with
    | .hw t c => r.logUndo t c (.vreg d ((r.tile t).vreg c d))
    | .gondola => r
  match (r0.tile s.curTile).allocName s.curCtx d with
  | some (x, pv) => some (r0.setTile s.curTile x, pv)
  | none => none

/-- After a source operand's read by an operation that takes `lat` clocks: a last use frees the name,
but one the instruction writes (R15, log 18). DESIGN CHOICE (log 18): where another slot of the bundle writes the name,
the slots act in their order, so that a later slot's last use frees the register just claimed and its write is lost,
and an earlier one frees the name before the write takes a fresh register (R146 gives no order). -/
def State.used (s : State) (u : VUse) (dst : Option VReg) (lat : Nat) : State :=
  let t := s.curTile
  let c := s.curCtx
  let s1 := s.onTile t fun x => x.touchName c u.reg lat
  if u.last && some u.reg != dst then
    (s1.logUndo t c (.vreg u.reg ((s1.tile t).vreg c u.reg))).onTile t fun x => x.freeName c u.reg
  else s1

/-! ### The outcome of an issue -/

/-- Every step's answer. -/
abbrev Out := Host.Outcome State Fault Refusal

/-- Does a held step count in CP by itself? -/
def Hold.counts (h : Hold) : Bool :=
  match h.kind with
  | .step (.signalStep ..) => true
  | .step (.taskTableStep ..) => true
  | .step (.lanternStep ..) => true
  | .step (.barrierReferenceStep _ _ _ op _) => match op with
    | .register .. => false
    | .lower .. => false
    | .abandon .. => false
    | _ => true
  | _ => false

/-- Does the acting context hold anything that counts in CP (R318, R320; log 19)? -/
def State.holdsCmd (s : State) : Bool :=
  s.cx.hold.any Hold.counts || (s.tile s.curTile).cmds.any fun k => k.ctx == s.curCtx && k.stat == .held

/-- Will a held command of the acting context fill a bay that is not READY? -/
def State.holdsFill (s : State) : Bool :=
  (s.tile s.curTile).cmds.any fun k => k.ctx == s.curCtx && k.stat == .held && match k.dstBay with
    | some n => (s.bay n).st != .ready
    | none => false

/-- What a block leaves behind: YIELD has blocked once (R116); a WAITC on CP that blocks while a
command or a step that counts in CP is held, at a point that is no commit wait, and a bay that the context's own held command
will fill, expose the segment (R320, log 19). -/
def State.blocked (s : State) (i : Instr) : State :=
  match i with
  | .yield => s.onCx fun x => { x with yielded := true }
  | .waitc b =>
    if b.cp.toNat < s.cx.regs.cp ∧ !s.cx.commitWait ∧ s.holdsCmd then s.exposeCur else s
  | _ => if s.holdsFill then s.exposeCur else s

/-- The bay a form N access names, with its use. -/
def insBay : Instr → Option (BayNo × BayUse)
  | .pld _ l | .pldb _ l _ _ | .plds _ l _ | .pldx _ l _ | .pldsc _ _ _ l => some (l.bay, .load)
  | .pst _ l | .pstb _ l _ _ | .psts _ l _ | .pstx _ l _ | .pstm _ l | .pstsc _ _ l => some (l.bay, .store)
  | .patom _ _ l _ => some (l.bay, .atomic)
  | .binit _ _ l | .barv _ l => some (l.bay, .barrier)
  | .bwait _ l => some (l.bay, .barrierRead)
  | _ => none

/-- Is the bay a form N access names in a state that does not admit it, so that its bundle blocks whatever its operands
turn out to be (R74, R183)? -/
def State.bayBlocks (s : State) (i : Instr) : Bool :=
  match insBay i with
  | some (n, u) => (s.bay n).admits s.curCtx && !u.admits (s.bay n).st
  | none => false

/-- Does an instruction of the E slot take a locator from an X register? -/
def byLocator : Instr → Bool
  | .cpy .. | .cpyi .. | .cpys .. | .cpyb .. | .cfeed .. | .mwr .. | .snget .. | .collAllreduce .. | .collRedscat ..
  | .collAllgath .. | .collBcast .. => true
  | _ => false

def Issue.isBlock : Issue → Bool
  | .block => true
  | _ => false

def Issue.isStall : Issue → Bool
  | .stall => true
  | _ => false

/-- The check of R166, which is made at each try, before any block or stall. -/
def Issue.isCombination : Issue → Bool
  | .trap .illegalCombination => true
  | _ => false

/-- Does a slot's instruction meet a block condition (R74)? One whose register is scoreboarded does where its bay alone
tells; a locator that is still to be written tells nothing. -/
def State.blocks (s : State) (i : Instr) (k : Issue) : Bool :=
  if s.scoreboarded i then s.bayBlocks i || (k.isBlock && !byLocator i && (insBay i).isNone) else k.isBlock

/-- An instruction issued by itself, in the order of `State.verdict`: the check of R166 first, then a block, a
scoreboarded operand or another stall, a rename move, a failed check, and else its effect. -/
def State.conclude (s : State) (i : Instr) (k : Issue) : Out :=
  let move := (s.tile s.curTile).needsMove s.curCtx (insNames i) (insWrite i).toList
  if k.isCombination then .next (s.trapCur .illegalCombination)
  else if s.blocks i k then .next (s.blocked i)
  else if s.scoreboarded i ∨ k.isStall then .next s
  else if move then .next (s.onTile s.curTile fun x => x.startMove s.curCtx (insNames i))
  else match k with
  | .trap c => .next (s.trapCur c)
  | .ok eff => match eff s with
    | some s1 => .next s1
    | none => .next s
  | _ => .next s

/-- May an instruction that names the registers of `i` issue: nothing it names is scoreboarded and no
rename move is needed first? -/
def State.ready (s : State) (i : Instr) : Bool :=
  !s.scoreboarded i && !(s.tile s.curTile).needsMove s.curCtx (insNames i) (insWrite i).toList

end Sys2Proof.Machine
end

