-- ==== Sys2Proof/Machine/Control.lean ====
section
/-! DEFINITION. Branches, the loop sequencer, waits and halting (R101 to R116, R129). -/

namespace Sys2Proof.Machine

/-! ### The PC (R101 to R103) -/

/-- The PC value of the next bundle in sequence, as the issuing bundle finds it. -/
def State.seqPc (s : State) : Word := s.cx.npc.getD s.cx.regs.pc

/-- The bank a PC names. -/
def pcBank (w : Word) : Fin 2 := Fin.ofNat 2 (w.toNat / 0x8000)

/-- Has a PC value no reserved bit set? -/
def pcPlain (w : Word) : Bool := w.toNat < 2 ^ 16 && w.toNat % 4 == 0

/-- Go to `target`, whose bundle issues `gap` clocks later at the earliest (R103). -/
def State.goto (s : State) (target : Word) (gap : Nat) : State :=
  s.onCx fun x => { x with npc := some target, resumeAt := s.clock + gap }

/-- A taken relative branch: the target within the bank, or Illegal Operand (R104). -/
def State.branch (s : State) (off : BitVec 32) (link : State → State) : Issue :=
  let t : Int := (s.cx.regs.pc.toNat % 0x8000 : Nat) + off.toInt
  .check (decide (0 ≤ t ∧ t ≤ 32764)) .illegalOperand
    (.done fun r => (link r).goto (BitVec.ofNat 64 (s.cx.regs.pc.toNat / 0x8000 * 0x8000 + t.toNat)) 3)

/-- A jump to a PC value of the current bank (R106). -/
def State.jump (s : State) (w : Word) (link : State → State) : Issue :=
  .check (pcPlain w && pcBank w == pcBank s.cx.regs.pc) .illegalOperand (.done fun r => (link r).goto w 3)

/-- The condition of BR (R104). -/
def Cond.holds (c : Cond) (a b : Word) : Bool :=
  match c with
  | .al => true
  | .eq => a == b
  | .ne => a != b
  | .lt => a.slt b
  | .ge => !a.slt b
  | .ltu => a.ult b
  | .geu => !a.ult b

/-! ### Meanings at issue -/

def issueNop (_s : State) : Issue := .done id

def issueBr (c : Cond) (a b : XReg) (off : BitVec 32) (s : State) : Issue :=
  if Cond.holds c (s.x a) (s.x b) then s.branch off id else .done id

def issueBri (a : XReg) (s : State) : Issue := s.jump (s.x a) id

def issueCall (d : XReg) (off : BitVec 32) (s : State) : Issue := s.branch off fun r => r.flyX 1 d s.seqPc

def issueCalli (d a : XReg) (s : State) : Issue := s.jump (s.x a) fun r => r.flyX 1 d s.seqPc

def issueRet (a : XReg) (s : State) : Issue := s.jump (s.x a) id

def issueBrmz (off : BitVec 32) (s : State) : Issue :=
  if s.cx.regs.top = 0 then s.branch off id else .done id

def issueBrmf (off : BitVec 32) (s : State) : Issue :=
  if s.cx.regs.top = BitVec.allOnes 1024 then s.branch off id else .done id

/-- A level changed. -/
def Regs.onLevel (g : Regs) (l : LevelNo) (f : Level → Level) : Regs := { g with lcs := g.lcs.set l (f g.lcs[l]) }

def issueLset (l : LevelNo) (a : XReg) (count : BitVec 24) (s : State) : Issue :=
  let n := (s.x a).toNat + count.toNat
  .check (decide (1 ≤ n ∧ n ≤ 16777215)) .illegalOperand
    (.done fun r => r.onRegs fun g => g.onLevel l fun v =>
      { v with act := false, init := BitVec.ofNat 24 n, cur := BitVec.ofNat 24 n })

/-- The place of LS(l, i) among the strides. -/
def strideAt (l : LevelNo) (i : AReg) : Fin 96 := ⟨16 * l.val + i.val, by omega⟩

def issueLstr (l : LevelNo) (i : AReg) (stride : BitVec 32) (_s : State) : Issue :=
  .done fun r => r.onRegs fun g => { g with lstr := g.lstr.set (strideAt l i) stride }

/-- The levels of a nest. -/
def inNest (lo hi l : LevelNo) : Bool := decide (lo ≤ l) && decide (l ≤ hi)

/-- A nest about to run: the levels lo to hi active, all others not, nothing captured (R112). -/
def Regs.startNest (g : Regs) (lo hi : LevelNo) (n : Nat) (start : Word) : Regs :=
  { g with
    lcs := Vector.ofFn fun l : Fin 6 =>
      if inNest lo hi l then { g.lcs[l] with act := true, cur := (g.lcs[l]).init }
      else { g.lcs[l] with act := false },
    nest := some ⟨lo, hi, n, [], 0, false, 0, start, false⟩ }

def issueLrun (lo hi : LevelNo) (n : BitVec 7) (s : State) : Issue :=
  .check ((List.finRange 6).all fun l => !inNest lo hi l || (s.cx.regs.lcs[l]).init != 0) .illegalOperand
    (.done fun r => r.onRegs fun g => g.startNest lo hi n.toNat s.seqPc)

def issueLbrk (l : LevelNo) (a : XReg) (_s : State) : Issue :=
  .done fun r => r.onRegs fun g => g.onLevel l fun v => { v with arm := if a = 0 then none else some a }

/-- Are the class counters within the bounds of WAITC (R115)? -/
def Bounds.within (b : Bounds) (g : Regs) : Bool :=
  decide (g.ld ≤ b.ld.toNat ∧ g.st ≤ b.st.toNat ∧ g.cp ≤ b.cp.toNat ∧ g.tok ≤ b.tok.toNat)

def issueWaitc (b : Bounds) (s : State) : Issue :=
  if Bounds.within b s.cx.regs then .done id else .block

def issueYield (s : State) : Issue :=
  if s.cx.yielded then .done fun r => r.onCx fun x => { x with yielded := false } else .block

/-- IFENCE discards prefetched words; fetch reads the bank itself, so nothing else changes (log 22). -/
def issueIfence (_s : State) : Issue := .done id

/-- Has another task reserved a bank by a copy (R215)? -/
def State.bankTaken (s : State) (b : Fin 2) : Bool :=
  ((s.tile s.curTile).banks[b]).resv.any fun r => r.1 != s.tid

def issueBanksw (a : XReg) (s : State) : Issue :=
  let w := s.x a
  .check (pcPlain w && pcBank w != pcBank s.cx.regs.pc && !s.bankTaken (pcBank w)) .illegalOperand
    (.done fun r => r.goto w 6)

/-- HALT (R129), which is reserved to S. -/
def issueHalt (s : State) : Issue :=
  if s.cx.regs.priv = .U then .trap .privilegeViolation else .done fun r => r.onCx fun x => { x with run := .halted }

/-! ### Meanings -/

def execNop (s : State) : Out := s.conclude .nop (issueNop s)
def execBr (c : Cond) (a b : XReg) (off : BitVec 32) (s : State) : Out :=
  s.conclude (.br c a b off) (issueBr c a b off s)
def execBri (a : XReg) (s : State) : Out := s.conclude (.bri a) (issueBri a s)
def execCall (d : XReg) (off : BitVec 32) (s : State) : Out := s.conclude (.call d off) (issueCall d off s)
def execCalli (d a : XReg) (s : State) : Out := s.conclude (.calli d a) (issueCalli d a s)
def execRet (a : XReg) (s : State) : Out := s.conclude (.ret a) (issueRet a s)
def execBrmz (off : BitVec 32) (s : State) : Out := s.conclude (.brmz off) (issueBrmz off s)
def execBrmf (off : BitVec 32) (s : State) : Out := s.conclude (.brmf off) (issueBrmf off s)
def execLset (l : LevelNo) (a : XReg) (count : BitVec 24) (s : State) : Out :=
  s.conclude (.lset l a count) (issueLset l a count s)
def execLstr (l : LevelNo) (i : AReg) (stride : BitVec 32) (s : State) : Out :=
  s.conclude (.lstr l i stride) (issueLstr l i stride s)
def execLrun (lo hi : LevelNo) (n : BitVec 7) (s : State) : Out :=
  s.conclude (.lrun lo hi n) (issueLrun lo hi n s)
def execLbrk (l : LevelNo) (a : XReg) (s : State) : Out := s.conclude (.lbrk l a) (issueLbrk l a s)
def execWaitc (b : Bounds) (s : State) : Out := s.conclude (.waitc b) (issueWaitc b s)
def execYield (s : State) : Out := s.conclude .yield (issueYield s)
def execIfence (s : State) : Out := s.conclude .ifence (issueIfence s)
def execBanksw (a : XReg) (s : State) : Out := s.conclude (.banksw a) (issueBanksw a s)
def execHalt (s : State) : Out := s.conclude .halt (issueHalt s)

end Sys2Proof.Machine
end

