-- ==== Sys2Proof/Machine/Task.lean ====
section
/-! DEFINITION. Ending, creating and releasing tasks, signals and timers (R117 to R128), with the
steps these put at the task table, at signal objects and at barriers. -/

namespace Sys2Proof.Machine

/-! ### Ending a task (R117, R118) -/

/-- The NRES flag of R327. -/
def State.setNres (s : State) : State := s.onRegs fun g => { g with nres := true }

/-- The task's records still queued go to the event ring (R313). -/
def State.postDeferred (s : State) (t : TileNo) (c : CtxNo) : State :=
  match s.partOf t with
  | none => s
  | some p =>
    let s1 := (s.ctxAt t c).dq.foldl (fun s r => s.postPart p 0xFFF (recWord r) true (s.ctxid t c).toNat 0) s
    s1.onCtx t c fun x => { x with dq := [] }

/-- The accesses of a list that R285 orders after one that is gone, and which go with it. -/
def goneAfter : List GAcc → List GAcc → List GAcc
  | gone, [] => gone
  | gone, g :: gs =>
    if g.stat = .outstanding ∧ gone.any fun e => decide (e.id < g.id) && e.before g then goneAfter (gone ++ [g]) gs
    else goneAfter gone gs

/-- Is a held step a hand-off of R128, whose effect waits for the stores before it? -/
def Tile.handsOff (x : Tile) : Instr → Bool
  | .signalStep .. | .taskTableStep .. | .tspawnCheck .. => true
  | .copyStart _ id => (x.cmd? id).any fun k => match k.ins.ins with
    | .evpost .. => true
    | _ => false
  | .lanternStep _ _ _ (.put ..) => true
  | _ => false

/-- The lowest free slot of a task table (R354). -/
def State.freeSlot (s : State) (p : PartNo) : Option Nat :=
  ((List.range 16384).find? fun i => match Map.get? (s.part p).tasks i with
    | some x => x.use.isNone
    | none => true)

/-- The generation a slot has. -/
def State.slotGen (s : State) (p : PartNo) (i : Nat) : BitVec 8 :=
  match Map.get? (s.part p).tasks i with
  | some x => x.gen
  | none => 0

def State.setSlot (s : State) (p : PartNo) (i : Nat) (u : Option SlotUse) (g : BitVec 8) : State :=
  s.onPart p fun x => { x with tasks := Map.set x.tasks i ⟨g, u⟩ }

/-- A slot freed: its generation advances (R125, R358), and a launch that waits for one is looked at again (R347). -/
def State.freeTaskSlot (s : State) (p : PartNo) (i : Nat) : State :=
  (s.setSlot p i none (s.slotGen p i + 1)).serve (s.funcOf p)

/-- Stores of a task that has ended are gone: the hand-offs that wait for them never take effect (R128, log 23); a timer
stays armed whatever becomes of its task (R124). -/
def State.dropBehind (s : State) (t : TileNo) (c : CtxNo) (gone : List Nat) : State :=
  let x := s.tile t
  let behind := fun (after : Nat) => gone.any fun id => decide (id < after)
  let out := fun (h : Hold) => behind h.after && match h.kind with
    | .step ev => x.handsOff ev
    | _ => false
  let k := x.ctxs[c]
  let s1 := s.setCtx t c { k with hold := k.hold.filter fun h => !out h }
  (k.hold.filter out).foldl (fun s h => match h.kind with
    | .step (.tspawnCheck _ _ _ p i _) => if i < 16384 then s.freeTaskSlot p i else s
    | .step (.copyStart _ id) => s.onTile t fun x => x.dropCmd id
    | _ => s) s1

/-- Accesses of a context are gone, with what R285 orders after them: their places in the hold, the hand-offs behind
their stores, their counts. -/
def State.dropGone (s : State) (t : TileNo) (c : CtxNo) (first : List GAcc) : State :=
  let all := goneAfter first (s.ctxAt t c).gaccs
  let ids := all.map (·.id)
  let s1 := s.onCtx t c fun x => { x with
    gaccs := x.gaccs.filter fun g => !ids.contains g.id,
    regs := { x.regs with
      ld := x.regs.ld - (x.gaccs.filter fun g => ids.contains g.id && countsLd g.ins.ins).length,
      st := x.regs.st - (x.gaccs.filter fun g => ids.contains g.id && !countsLd g.ins.ins).length },
    hold := x.hold.filter fun h => match h.kind with
      | .store id _ _ _ => !ids.contains id
      | _ => true }
  (s1.dropBehind t c ((all.filter fun g => isGStore g.ins.ins).map (·.id))).drain t c

/-- Records of a live frame when its task ends: outstanding accesses go on, the others are gone with what waits for
them (R128, R210, R227, log 23). -/
def State.leaveFrame (s : State) (t : TileNo) (c : CtxNo) : State :=
  match (s.ctxAt t c).frame with
  | none => s
  | some f =>
    let gone := f.pend.filter fun g => g.stat == .faulted || g.stat == .replay
    (s.onCtx t c fun x => { x with
      frame := none, gaccs := f.pend.filter (fun g => g.stat == .outstanding) ++ x.gaccs }).dropGone t c gone

/-- The wind-down of a context whose bundle held a task-ending instruction: the segment entry its
issue makes, and nothing issues any more (R117, R317). -/
def State.beginWind (s : State) (t : TileNo) (c : CtxNo) : State :=
  if (s.ctxAt t c).endWait.isSome ∧ (s.ctxAt t c).run = .bound then
    ((s.leaveFrame t c).enter t c).onCtx t c fun x => { x with run := .winding }
  else s

/-- Begin the wind-down of the acting context. -/
def State.windCur (s : State) : State :=
  match s.cur with
  | .hw t c => s.beginWind t c
  | .gondola => s

/-- An instruction that ends the task, issued by itself: its bundle's end begins the wind-down. -/
def Out.wind : Out → Out
  | .next s => .next s.windCur
  | o => o

def issueTexit (_s : State) : Issue := .done fun r => r.onCx fun x => { x with endWait := some none }

/-- The lowest free pool entry of a tile (R119). -/
def State.freeCont (s : State) (p : PartNo) (t : TileNo) : Option Nat :=
  Map.freeFrom (s.part p).conts (16 * t.val) 16

/-- A pool entry taken for a wait whose values are not captured yet. -/
def Cont.fresh (k : Task) (w : WaitReg) : Cont :=
  { task := if k.spawned then { k with slot := 16384 } else k, resume := w.resume, status := w.status, xs := [], as := [], vs := [],
    fpctl := 0, stky := 0, next := none, threshold := 0, ready := none }

/-- The task of the acting context, or a task that stands in where it has none. -/
def State.curTask (s : State) : Task :=
  s.cx.task.getD ⟨0, 0, 0, false, false, 0, 0, 0, false, false, 0, 0, 0, 0⟩

/-- WAITB and TCONT: the task ends and leaves a continuation (R118, R119). -/
def State.issueWait (s : State) (st a g : XReg) (live : Live) (bar : Bool) : Issue :=
  match s.freeCont s.curPart s.curTile with
  | none => .trap .poolEmpty
  | some i =>
    let w : WaitReg := ⟨i, bar, s.x a, s.x g, live, st, s.seqPc⟩
    .done fun r =>
      ((r.onPart s.curPart fun p => { p with conts := Map.set p.conts i (Cont.fresh s.curTask w) }).onCx
        fun x => { x with endWait := some (some w) }).setNres

def issueWaitb (st a g : XReg) (live : Live) (s : State) : Issue := s.issueWait st a g live true
def issueTcont (st a b : XReg) (live : Live) (s : State) : Issue := s.issueWait st a b live false

/-! ### Signals, dependencies, timers -/

def issueTsig (a b : XReg) (addend : BitVec 32) (s : State) : Issue :=
  let ev := Instr.signalStep (.tsig s.curTile s.curCtx s.tid) s.curPart (s.x a) (s.x b + addend.signExtend 64)
  .ok fun r => r.addCp.map fun r => (r.holdStep 1 ev).setNres

def issueTdep (a : XReg) (amount : BitVec 16) (s : State) : Issue :=
  let ev := Instr.taskTableStep s.curTile s.curCtx s.tid s.curPart (s.x a) amount.toNat
  .ok fun r => r.addCp.map fun r => (r.holdStep 1 ev).setNres

/-- TSPAWN's step at the task table: the slot holds the task and its counter from now on; the checks
follow no earlier than issue + 64. With a full table no task is created, and the step that ends its count in CP names
no slot (R125). -/
def issueTspawn (d a b : XReg) (count : BitVec 16) (s : State) : Issue :=
  let p := s.curPart
  let sp : Spawn := ⟨(s.x a).toNat, (s.x b).toNat, none, Vector.replicate 8 0, count.toNat,
    if count = 0 then some s.now else none, none, false, s.ctxid s.curTile s.curCtx⟩
  .ok fun r => match r.freeSlot p with
    | none => r.addCp.map fun r =>
      (((r.flyX 64 d (BitVec.allOnes 64)).exposeCur.holdStep 0 (.tspawnCheck s.curTile s.curCtx s.tid p 16384 0)).setNres)
    | some i => r.addCp.map fun r =>
      let g := r.slotGen p i
      let r1 := (r.setSlot p i (some (.spawn sp)) g).flyX 64 d (BitVec.ofNat 64 (handleOf i g))
      (r1.exposeCur.holdStep 0 (.tspawnCheck s.curTile s.curCtx s.tid p i g)).setNres

/-- A timer's place in the wheel of 4,096 (R124). -/
def State.freeTimer (s : State) (p : PartNo) : Option Nat := Map.freeFrom (s.part p).timers 0 4096

/-- The tick at which TIME reaches a value, as it runs now. -/
def State.tickOf (s : State) (time : Nat) : Nat :=
  let rate := (1000000 + s.slew).toNat
  s.timeAt + ((time - s.timeOff) * (ticksPerNs * 1000000) + rate - 1) / rate

/-- TARM (R124): the object is checked first, then a deadline already passed, then the wheel (log 24). Its step carries
the ordering of its issue (R128): at once it waits in the hold, and later at its deadline, for the stores before it. -/
def issueTarm (d t a b : XReg) (relt : Bool) (s : State) : Issue :=
  let p := s.curPart
  let deadline := if relt then s.time + (s.x t).toNat else (s.x t).toNat
  .done fun r =>
    let r0 := (r.exposeCur.writeBack s.curTile (some s.curCtx) wholeSpace .part).setNres
    match r0.signalHome p (s.x a) with
    | .error _ => r0.flyX 64 d 3
    | .ok _ =>
      if deadline < s.time then
        (r0.flyX 64 d 2).holdStep 0 (.signalStep (.timer s.curTile s.curCtx) p (s.x a) (s.x b))
      else match r0.freeTimer p with
      | none => r0.flyX 64 d 1
      | some i =>
        let r1 := r0.onPart p fun x =>
          { x with timers := Map.set x.timers i ⟨s.curTile, s.curCtx, r0.nextId, deadline, s.x a, s.x b⟩ }
        (r1.schedAt (max r1.now (r1.tickOf deadline)) (orderKey s.curTile s.curCtx) (.timerDeadline p i)).flyX 64 d 0

/-! ### Steps at the task table (R125, R126) -/

/-- A hand-off step of a context: its dirty lines written back over the whole space (R128, R286). -/
def State.handOff (s : State) (t : TileNo) (c : CtxNo) (sc : Scope) : State :=
  s.writeBack t (some c) wholeSpace sc

/-- A waiting spawned task whose checks have passed and whose counter is 0 becomes ready, with the ready clock of the
subtraction, or of the TSPAWN, that left the counter at 0 (R125, R126). -/
def State.readySpawn (s : State) (p : PartNo) (i : Nat) : State :=
  match Map.get? (s.part p).tasks i with
  | some ⟨g, some (.spawn sp)⟩ =>
    if sp.counter = 0 ∧ sp.desc.isSome ∧ sp.readyAt.isNone ∧ !sp.running then
      (s.setSlot p i (some (.spawn { sp with readyAt := some (sp.zeroAt.getD s.now) })) g).kick p
    else s
  | _ => s

/-- TASK_TABLE_STEP: a decrement (R126). A task that became ready in this same clock has a counter of 0, so the
loser of a race in one clock meets Dependency Underflow (R127, log 25). -/
def execTaskTableStep (t : TileNo) (c : CtxNo) (tid : Nat) (p : PartNo) (handle : Word) (amount : Nat)
    (s : State) : Out :=
  let s0 := (s.handOff t c .part).dropCp t c tid
  let i := handle.toNat % 2 ^ 24
  let stale := s0.arrive t c tid (defRec 2 0x13 none handle)
  if handle.toNat / 2 ^ 32 ≠ 0 ∨ 16384 ≤ i ∨ s0.slotGen p i ≠ handle.extractLsb' 24 8 then .next stale
  else match Map.get? (s0.part p).tasks i with
  | some ⟨g, some (.spawn sp)⟩ =>
    if sp.running ∨ (sp.readyAt.any fun n => n != s0.now) then .next stale
    else if sp.counter < amount then .next (s0.arrive t c tid (defRec 1 0x13 none handle))
    else .next ((s0.setSlot p i (some (.spawn { sp with
      counter := sp.counter - amount,
      zeroAt := if sp.counter = amount then some s0.now else sp.zeroAt })) g).readySpawn p i)
  | _ => .next stale

/-! ### Signal steps (R123, R124, R345) -/

/-- The place of a signal's source among steps of one tick (R127). -/
def signalKey : SigSrc → Nat
  | .tsig t c _ => orderKey t c
  | .timer t c => orderKey t c
  | .queue _ _ => 900

/-- A step at a page under a flip waits for the page's new bias, and looks again within a microsecond (R299, log 16). -/
def State.awaitFlip (s : State) (key : Nat) (ev : Instr) : State :=
  s.drew.postpone (s.now + s.delay (nanos 1) (nanos 1000)) key ev

/-- SIGNAL_STEP: a TSIG, a fired timer, or a queue's SIGNAL. -/
def execSignalStep (src : SigSrc) (p : PartNo) (a addend : Word) (s : State) : Out :=
  if s.flipping p (a.toNat, 16) then .next (s.awaitFlip (signalKey src) (.signalStep src p a addend))
  else match src with
  | .tsig t c tid =>
    let s0 := (s.handOff t c .part).dropCp t c tid
    match s0.signalAt p a addend with
    | .ok s1 => .next s1
    | .error e => .next (s0.arrive t c tid (defRec e 0x12 none a))
  | .timer t c =>
    let s0 := s.handOff t c .part
    match s0.signalAt p a addend with
    | .ok s1 => .next s1
    | .error _ => .next s0
  | .queue _ _ => match s.signalAt p a addend with
    | .ok s1 => .next s1
    | .error _ => .next s

/-- TIMER_DEADLINE: the timer leaves the wheel and its step lands within 1 µs (R124), or looks again a clock later while
a store that it was issued behind is not accepted (R128). -/
def execTimerDeadline (p : PartNo) (i : Nat) (s : State) : Out :=
  match Map.get? (s.part p).timers i with
  | none => .next s
  | some k =>
    if s.time < k.deadline then
      .next (s.schedAt (max (s.now + 1) (s.tickOf k.deadline)) (orderKey k.tile k.ctx) (.timerDeadline p i))
    else if (s.ctxAt k.tile k.ctx).storeBefore k.after then
      .next (s.schedAt (s.now + s.tilePeriod k.tile) (orderKey k.tile k.ctx) (.timerDeadline p i))
    else
      let s1 := s.onPart p fun x => { x with timers := Map.erase x.timers i }
      .next (s1.sched 0 (nanos 900) (orderKey k.tile k.ctx) (.signalStep (.timer k.tile k.ctx) p k.obj k.addend))

/-! ### Registration and wind-down -/

/-- WAIT_REGISTRATION: the one atomic step at the object (R120, R122); at a barrier it waits for its clock (R192). -/
def execWaitRegistration (t : TileNo) (c : CtxNo) (p : PartNo) (i : Nat) (bar : Bool) (obj arg : Word)
    (s : State) : Out :=
  match s.cont? p i with
  | none => .next s
  | some _ =>
    if bar then
      match s.barRefBy p t c obj with
      | some (u, _, o) =>
        let q := s.barTurn u o (orderKey t c)
        if s.now < q.1 then .next (q.2.postpone q.1 (orderKey t c) (.waitRegistration t c p i bar obj arg))
        else .next (((q.2.readExposes u (if u = t then some c else none) o 16).registerBarrier p i obj arg).onTile u
          fun x => x.markNewer o 16)
      | none => .next (s.enqueue p i 2)
    else if s.flipping p (obj.toNat, 16) then
      .next (s.awaitFlip (orderKey t c) (.waitRegistration t c p i bar obj arg))
    else .next (s.registerSignal p i obj arg)

/-- The registers a continuation takes with it (R118), once every result in flight has landed. -/
def Tile.capture (x : Tile) (c : CtxNo) (w : WaitReg) (k : Cont) : Cont :=
  let g := (x.ctxs[c]).regs
  { k with
    xs := (liveXs w.live).map fun r => (r, g.x r), as := (liveAs w.live).map fun r => (r, g.as[r]),
    vs := (liveVs w.live).map fun r => (r, x.vreg c r), fpctl := g.fpctl, stky := g.stky }

/-- Is the end of a context's task no held effect any more: its entries have committed, or the segment that the end closed
was exposed (R318, R320, R435)? -/
def Ctx.endLeaves (x : Ctx) : Bool :=
  (x.segs.all fun e => e.committed) || (x.segs.getLast?.map (·.afterExposed)) == some true

/-- Has the wind-down of a context come to its end (R117): nothing in flight, no CFEED, its end no held effect, every held
effect out? -/
def State.woundDown (s : State) (t : TileNo) (c : CtxNo) : Bool :=
  let x := s.tile t
  let k := x.ctxs[c]
  k.run == .winding && k.gaccs.isEmpty && k.mops.isEmpty && k.flight.isEmpty && k.hold.isEmpty
    && k.endLeaves && !(x.cmds.any fun m => m.ctx == c && m.tid == (k.task.map (·.tid)).getD 0
      && match m.ins.ins with
        | .cfeed .. => true
        | _ => false)

/-- A context as a new task finds it (R33). -/
def Ctx.cleared (x : Ctx) : Ctx := { Ctx.start with ints := x.ints }

/-- A context as its task leaves it: its registers, status slots and result tiles stand until the next task is bound (R33,
R357, R415, R445). -/
def Ctx.left (x : Ctx) : Ctx := { x.cleared with regs := x.regs, rts := x.rts }

/-- A task leaves its context: bank reservations end, names are freed, its spawned slot is freed, its
launch may be complete, its power request ends (R15, R117, R125, R138, R215). -/
def State.leaveCtx (s : State) (t : TileNo) (c : CtxNo) : State :=
  let tid := ((s.ctxAt t c).task.map (·.tid)).getD 0
  let k := (s.ctxAt t c).task
  let s1 := s.onTile t fun x =>
    let y := (x.freeNames c).setCtx c ((x.freeNames c).ctxs[c]).left
    { y with
      banks := y.banks.map fun b => { b with resv := b.resv.filter fun r => r.1 != tid },
      undo := y.undo.filter fun u => u.ctx != c,
      cmds := if (s.ctxAt t c).endWait = some none then
          y.cmds.filter fun m => !(m.ctx == c && m.tid == tid && m.stat == .complete)
        else y.cmds }
  let s2 := match k, s.partOf t with
    | some k, some p =>
      let s3 := if k.spawned ∧ k.slot < 16384 then s1.freeTaskSlot p k.slot else s1
      s3.checkLaunch p (k.owner % 2 ^ 24)
    | _, _ => s1
  s2.relevel (clusterOf t)

/-- WIND_DOWN_COMPLETE: the continuation is captured and leaves for its object, and the context is free. -/
def execWindDownComplete (t : TileNo) (c : CtxNo) (s : State) : Out :=
  if !s.woundDown t c then .next s
  else
    let s0 := s.postDeferred t c
    match (s0.ctxAt t c).endWait, s0.partOf t with
    | some (some w), some p =>
      let s1 := s0.onCont p w.idx fun k => (s0.tile t).capture c w k
      .next ((s1.leaveCtx t c).hub t c 0 150 (.waitRegistration t c p w.idx w.bar w.obj w.arg))
    | _, _ => .next (s0.leaveCtx t c)

/-! ### Meanings -/

def execTexit (s : State) : Out := Out.wind (s.conclude .texit (issueTexit s))
def execWaitb (st a g : XReg) (live : Live) (s : State) : Out :=
  Out.wind (s.conclude (.waitb st a g live) (issueWaitb st a g live s))
def execTcont (st a b : XReg) (live : Live) (s : State) : Out :=
  Out.wind (s.conclude (.tcont st a b live) (issueTcont st a b live s))
def execTspawn (d a b : XReg) (count : BitVec 16) (s : State) : Out :=
  s.conclude (.tspawn d a b count) (issueTspawn d a b count s)
def execTsig (a b : XReg) (addend : BitVec 32) (s : State) : Out :=
  s.conclude (.tsig a b addend) (issueTsig a b addend s)
def execTdep (a : XReg) (amount : BitVec 16) (s : State) : Out := s.conclude (.tdep a amount) (issueTdep a amount s)
def execTarm (d t a b : XReg) (relt : Bool) (s : State) : Out :=
  s.conclude (.tarm d t a b relt) (issueTarm d t a b relt s)

end Sys2Proof.Machine
end

