-- ==== Sys2Proof/Machine/Scalar.lean ====
section
/-! DEFINITION. The scalar instructions (R130 to R134): integer results wrap and set no flag; each
result lands at the issue clock plus its latency. -/

namespace Sys2Proof.Machine

/-- A scalar result with its latency (R134). -/
def scalar (lat : Nat) (d : XReg) (v : Word) (fl : Fl := 0) : Issue := .done fun r => r.flyX lat d v fl

/-- A shift count: the low 6 bits (R41). -/
def shiftCount (b : Word) : Nat := b.toNat % 64

/-- 1 where a predicate holds, else 0. -/
def truth (b : Bool) : Word := if b then 1 else 0

/-- RM and FTZ as they stand at issue (R31). -/
def State.fp (s : State) : FpCtl := fpCtlOf s.cx.regs.fpctl

/-- The FP32 operand of an X register: bits [31:0] (R10). -/
def State.f (s : State) (r : XReg) : HWord := (s.x r).extractLsb' 0 32

/-! ### Meanings at issue -/

def issueAdd (d a b : XReg) (s : State) : Issue := scalar 1 d (s.x a + s.x b)
def issueSub (d a b : XReg) (s : State) : Issue := scalar 1 d (s.x a - s.x b)
def issueAddi (d a : XReg) (imm : BitVec 32) (s : State) : Issue := scalar 1 d (s.x a + imm.signExtend 64)
def issueMul (d a b : XReg) (s : State) : Issue := scalar 3 d (s.x a * s.x b)
def issueMulh (d a b : XReg) (s : State) : Issue := scalar 3 d (BitVec.ofInt 64 ((s.x a).toInt * (s.x b).toInt / 2 ^ 64))
def issueDiv (d a b : XReg) (s : State) : Issue := scalar 20 d (divS (s.x a) (s.x b))
def issueDivu (d a b : XReg) (s : State) : Issue := scalar 20 d (divU (s.x a) (s.x b))
def issueRem (d a b : XReg) (s : State) : Issue := scalar 20 d (remS (s.x a) (s.x b))
def issueAnd (d a b : XReg) (s : State) : Issue := scalar 1 d (s.x a &&& s.x b)
def issueOr (d a b : XReg) (s : State) : Issue := scalar 1 d (s.x a ||| s.x b)
def issueXor (d a b : XReg) (s : State) : Issue := scalar 1 d (s.x a ^^^ s.x b)
def issueShl (d a b : XReg) (s : State) : Issue := scalar 1 d (s.x a <<< shiftCount (s.x b))
def issueShr (d a b : XReg) (s : State) : Issue := scalar 1 d (s.x a >>> shiftCount (s.x b))
def issueSar (d a b : XReg) (s : State) : Issue := scalar 1 d ((s.x a).sshiftRight (shiftCount (s.x b)))
def issueMin (d a b : XReg) (s : State) : Issue := scalar 1 d (if (s.x b).slt (s.x a) then s.x b else s.x a)
def issueMax (d a b : XReg) (s : State) : Issue := scalar 1 d (if (s.x a).slt (s.x b) then s.x b else s.x a)
def issueSlt (d a b : XReg) (s : State) : Issue := scalar 1 d (truth ((s.x a).slt (s.x b)))
def issueSltu (d a b : XReg) (s : State) : Issue := scalar 1 d (truth ((s.x a).ult (s.x b)))
def issueSel (d a b c : XReg) (s : State) : Issue := scalar 1 d (if s.x c ≠ 0 then s.x a else s.x b)
def issueClz (d a : XReg) (s : State) : Issue := scalar 1 d (clz (s.x a))
def issuePopc (d a : XReg) (s : State) : Issue := scalar 1 d (popc (s.x a))
def issueLi (d : XReg) (imm : BitVec 64) (_s : State) : Issue := scalar 1 d (imm)

/-- BFX (R43): an offset or a width out of range raises Illegal Operand. -/
def issueBfx (d a b c : XReg) (s : State) : Issue :=
  if (s.x b).toNat < 64 ∧ (s.x c).toNat ≤ 64 then scalar 1 d (bfx (s.x a) (s.x b).toNat (s.x c).toNat)
  else .trap .illegalOperand

/-- BFI (R43): the destination is read and written back. -/
def issueBfi (d a b c : XReg) (s : State) : Issue :=
  if (s.x b).toNat < 64 ∧ (s.x c).toNat ≤ 64 then scalar 1 d (bfi (s.x d) (s.x a) (s.x b).toNat (s.x c).toNat)
  else .trap .illegalOperand

/-- AMOV (R133): no post-step; the write lands one clock after the issue (log 8). -/
def issueAmov (op : AmovOp) (s : State) : Issue :=
  match op with
  | .toA d a => .done fun r => r.fly 1 (.a d) (s.x a) 0 0 0 false
  | .fromA d a => scalar 1 d (s.a a)
  | .aToA d a => .done fun r => r.fly 1 (.a d) (s.a a) 0 0 0 false

def issueFcmp (p : FPred) (d a b : XReg) (s : State) : Issue :=
  let r := fCmp s.fp p (s.f a) (s.f b)
  scalar 2 d (truth r.1) r.2

/-- FCVT (R132): FTZ applies to FP32 inputs and results. -/
def fcvtValue (op : FcvtOp) (c : FpCtl) (a : Word) : Word × Fl :=
  match op with
  | .f2l => let r := f32ToInt c 64 (a.extractLsb' 0 32); (BitVec.ofInt 64 r.1, r.2)
  | .f2w => let r := f32ToInt c 32 (a.extractLsb' 0 32); (BitVec.ofInt 64 r.1, r.2)
  | .l2f => let r := intToF32 c a.toInt; (r.1.zeroExtend 64, r.2)
  | .w2f => let r := intToF32 c (a.extractLsb' 0 32).toInt; (r.1.zeroExtend 64, r.2)

def issueFcvt (op : FcvtOp) (d a : XReg) (s : State) : Issue :=
  let r := fcvtValue op s.fp (s.x a)
  scalar 4 d r.1 r.2

/-- An FP32 result in an X register (R131). -/
def scalarF (d : XReg) (r : FRes) : Issue := scalar 4 d (r.1.zeroExtend 64) r.2

def issueFadd (d a b : XReg) (s : State) : Issue := scalarF d (fAdd s.fp (s.f a) (s.f b))
def issueFmul (d a b : XReg) (s : State) : Issue := scalarF d (fMul s.fp (s.f a) (s.f b))
def issueFfma (d a b c : XReg) (s : State) : Issue := scalarF d (fFma s.fp (s.f a) (s.f b) (s.f c))

/-! ### Meanings -/

def execAdd (d a b : XReg) (s : State) : Out := s.conclude (.add d a b) (issueAdd d a b s)
def execSub (d a b : XReg) (s : State) : Out := s.conclude (.sub d a b) (issueSub d a b s)
def execAddi (d a : XReg) (imm : BitVec 32) (s : State) : Out := s.conclude (.addi d a imm) (issueAddi d a imm s)
def execMul (d a b : XReg) (s : State) : Out := s.conclude (.mul d a b) (issueMul d a b s)
def execMulh (d a b : XReg) (s : State) : Out := s.conclude (.mulh d a b) (issueMulh d a b s)
def execDiv (d a b : XReg) (s : State) : Out := s.conclude (.div d a b) (issueDiv d a b s)
def execDivu (d a b : XReg) (s : State) : Out := s.conclude (.divu d a b) (issueDivu d a b s)
def execRem (d a b : XReg) (s : State) : Out := s.conclude (.rem d a b) (issueRem d a b s)
def execAnd (d a b : XReg) (s : State) : Out := s.conclude (.and d a b) (issueAnd d a b s)
def execOr (d a b : XReg) (s : State) : Out := s.conclude (.or d a b) (issueOr d a b s)
def execXor (d a b : XReg) (s : State) : Out := s.conclude (.xor d a b) (issueXor d a b s)
def execShl (d a b : XReg) (s : State) : Out := s.conclude (.shl d a b) (issueShl d a b s)
def execShr (d a b : XReg) (s : State) : Out := s.conclude (.shr d a b) (issueShr d a b s)
def execSar (d a b : XReg) (s : State) : Out := s.conclude (.sar d a b) (issueSar d a b s)
def execMin (d a b : XReg) (s : State) : Out := s.conclude (.min d a b) (issueMin d a b s)
def execMax (d a b : XReg) (s : State) : Out := s.conclude (.max d a b) (issueMax d a b s)
def execSlt (d a b : XReg) (s : State) : Out := s.conclude (.slt d a b) (issueSlt d a b s)
def execSltu (d a b : XReg) (s : State) : Out := s.conclude (.sltu d a b) (issueSltu d a b s)
def execSel (d a b c : XReg) (s : State) : Out := s.conclude (.sel d a b c) (issueSel d a b c s)
def execClz (d a : XReg) (s : State) : Out := s.conclude (.clz d a) (issueClz d a s)
def execPopc (d a : XReg) (s : State) : Out := s.conclude (.popc d a) (issuePopc d a s)
def execLi (d : XReg) (imm : BitVec 64) (s : State) : Out := s.conclude (.li d imm) (issueLi d imm s)
def execBfx (d a b c : XReg) (s : State) : Out := s.conclude (.bfx d a b c) (issueBfx d a b c s)
def execBfi (d a b c : XReg) (s : State) : Out := s.conclude (.bfi d a b c) (issueBfi d a b c s)
def execAmov (op : AmovOp) (s : State) : Out := s.conclude (.amov op) (issueAmov op s)
def execFcmp (p : FPred) (d a b : XReg) (s : State) : Out := s.conclude (.fcmp p d a b) (issueFcmp p d a b s)
def execFcvt (op : FcvtOp) (d a : XReg) (s : State) : Out := s.conclude (.fcvt op d a) (issueFcvt op d a s)
def execFadd (d a b : XReg) (s : State) : Out := s.conclude (.fadd d a b) (issueFadd d a b s)
def execFmul (d a b : XReg) (s : State) : Out := s.conclude (.fmul d a b) (issueFmul d a b s)
def execFfma (d a b c : XReg) (s : State) : Out := s.conclude (.ffma d a b c) (issueFfma d a b c s)

end Sys2Proof.Machine
end

