-- ==== Sys2Proof/Machine/System.lean ====
section
/-! DEFINITION. The system instructions (R28 to R31, R135 to R138): CSRs, TRAP and SYSC, ERET, PWRQ. -/

namespace Sys2Proof.Machine

/-! ### The CSR map (R28, R29) -/

/-- CLSCNT: the class counters. -/
def Regs.clscnt (g : Regs) : Word := BitVec.ofNat 64 (g.tok * 2 ^ 24 + g.cp * 2 ^ 16 + g.st * 2 ^ 8 + g.ld)

/-- STRMST: the available entries of the streams. -/
def Ctx.strmst (x : Ctx) : Word := BitVec.ofNat 64 (x.mq.length * 2 ^ 16 + x.bf.length * 2 ^ 8 + x.af.length)

/-- The VMAP code of a name (R14). -/
def VName.code : VName → Nat
  | .unmapped => 0
  | .mapped _ => 1
  | .spilled => 2

/-- VMAP: two bits for each name. -/
def Regs.vmapWord (g : Regs) : Word :=
  BitVec.ofNat 64 (g.vmap.toList.foldr (fun n acc => n.code + 4 * acc) 0)

/-- RTST: the busy bits over the modes. -/
def Ctx.rtst (x : Ctx) : Word :=
  BitVec.ofNat 64 (x.rts.toList.foldr (fun r acc => (r.busy.toNat * 256 + r.xmode.toNat) + 2 * acc) 0)

/-- A loop level as its CSR reads (R23). -/
def Level.word (l : Level) : Word :=
  BitVec.ofNat 64 (l.act.toNat * 2 ^ 63 + l.init.toNat * 2 ^ 32 + l.cur.toNat)

/-- CHASH (R336). -/
def State.chash (s : State) : Word := BitVec.ofNat 64 (2 ^ 8 + s.pkg.chashKey.toNat)

/-- SSTAT (R30). -/
def State.sstat (s : State) : Word :=
  BitVec.ofNat 64 ((s.part s.curPart).prot.toNat * 4 + s.cx.regs.ie.toNat * 2 + s.cx.regs.pprv.toNat)

/-- The value of a CSR of the map, none for a number that is not in it. -/
def State.csrRead (s : State) (n : Nat) : Option Word :=
  let x := s.cx
  let g := x.regs
  if n = 0x000 then some g.fpctl
  else if n = 0x001 then some g.stky
  else if n = 0x002 then some g.clscnt
  else if n = 0x003 then some x.strmst
  else if n = 0x004 then some g.vmapWord
  else if n = 0x005 then some x.rtst
  else if n = 0x006 then some (g.msd.zeroExtend 64)
  else if n = 0x007 then some (s.ctxid s.curTile s.curCtx)
  else if n = 0x008 then some (BitVec.ofNat 64 s.time)
  else if n = 0x009 then some (BitVec.ofNat 64 s.clock)
  else if 0x010 ≤ n ∧ n ≤ 0x015 then some (Level.word g.lcs[Fin.ofNat 6 (n - 0x010)])
  else if 0x020 ≤ n ∧ n ≤ 0x02F then some ((g.asteps[Fin.ofNat 16 (n - 0x020)]).zeroExtend 64)
  else if 0x040 ≤ n ∧ n ≤ 0x09F then some ((g.lstr[Fin.ofNat 96 (n - 0x040)]).zeroExtend 64)
  else if n = 0x100 then some s.sstat
  else if n = 0x101 then some g.tvec
  else if n = 0x102 then some g.tcause
  else if n = 0x103 then some g.tepc
  else if n = 0x104 then some (BitVec.ofNat 64 (s.frameAt s.curTile s.curCtx))
  else if n = 0x105 then some g.sscr
  else if n = 0x106 then some s.chash
  else if n = 0x107 then some g.dmiss
  else none

/-- Is a CSR writable? -/
def csrWritable (n : Nat) : Bool :=
  n == 0x000 || n == 0x001 || (0x020 ≤ n && n ≤ 0x02F) || (0x040 ≤ n && n ≤ 0x09F) || n == 0x100
    || n == 0x101 || n == 0x103 || n == 0x105

/-- A write of a writable CSR: reserved and read-only bits keep what they read; the flags of results
that land in this clock are ORed in after it (R31). -/
def Ctx.csrWrite (x : Ctx) (n : Nat) (v : Word) : Ctx :=
  let g := x.regs
  if n = 0x000 then { x with regs := { g with fpctl := (v &&& 0x7F7) ||| (x.flagsNow.zeroExtend 64 <<< 4) } }
  else if n = 0x001 then { x with regs := { g with stky := (v &&& 0x103) ||| x.stkyNow } }
  else if 0x020 ≤ n ∧ n ≤ 0x02F then
    { x with regs := { g with asteps := g.asteps.set (Fin.ofNat 16 (n - 0x020)) (v.extractLsb' 0 32) } }
  else if 0x040 ≤ n ∧ n ≤ 0x09F then
    { x with regs := { g with lstr := g.lstr.set (Fin.ofNat 96 (n - 0x040)) (v.extractLsb' 0 32) } }
  else if n = 0x100 then { x with regs := { g with ie := v.getLsbD 1, pprv := v.getLsbD 0 } }
  else if n = 0x101 then { x with regs := { g with tvec := v &&& 0x7FFC } }
  else if n = 0x103 then { x with regs := { g with tepc := v &&& 0xFFFC } }
  else if n = 0x105 then { x with regs := { g with sscr := v } }
  else x

/-- A CSR instruction (R28, R135): `w` is the value it writes from the old one, if it writes. DESIGN CHOICE (log 80): a
number of 0x200 or above, which R28 leaves unsaid at U, raises Illegal Operand there too, as a number outside the map
does. -/
def State.csrOp (s : State) (d : XReg) (csr : BitVec 12) (w : Option (Word → Word)) : Issue :=
  let n := csr.toNat
  if 0x100 ≤ n ∧ n ≤ 0x1FF ∧ s.cx.regs.priv = .U then .trap .privilegeViolation
  else match s.csrRead n with
  | none => .trap .illegalOperand
  | some old => match w with
    | none => .done fun r => r.flyX 1 d old
    | some f => .check (csrWritable n) .illegalOperand
        (.done fun r => (r.onCx fun x => x.csrWrite n (f old)).flyX 1 d old)

/-! ### Meanings at issue -/

def issueCsrr (d : XReg) (csr : BitVec 12) (s : State) : Issue := s.csrOp d csr none

def issueCsrw (d a : XReg) (csr : BitVec 12) (s : State) : Issue := s.csrOp d csr (some fun _ => s.x a)

def issueCsrs (d a : XReg) (csr : BitVec 12) (s : State) : Issue :=
  s.csrOp d csr (if a = 0 then none else some fun old => old ||| s.x a)

def issueCsrc (d a : XReg) (csr : BitVec 12) (s : State) : Issue :=
  s.csrOp d csr (if a = 0 then none else some fun old => old &&& ~~~(s.x a))

/-- TRAP and SYSC are taken after their bundle has issued (R136). -/
def issueTrap (code : BitVec 20) (_s : State) : Issue :=
  .done fun r => r.onCx fun x => { x with afterIssue := some (.softwareTrap, code) }

def issueSysc (code : BitVec 20) (_s : State) : Issue :=
  .done fun r => r.onCx fun x => { x with afterIssue := some (.systemCall, code) }

/-- ERET (R310, R311): it waits while a record of the frame is outstanding. -/
def issueEret (s : State) : Issue :=
  if s.cx.regs.priv = .U then .trap .privilegeViolation
  else if (s.cx.frame.map Frame.waits).getD false then .stall
  else .done fun r => r.returnTrap s.curTile s.curCtx

/-- PWRQ (R138, R384, R389). -/
def State.powerStatus (s : State) (v : Word) : Nat :=
  let k := s.clusters[clusterOf s.curTile]
  if v.toNat < (Config.fusedLevel (clusterOf s.curTile)).val then 1
  else if k.bl.val < v.toNat ∨ (s.pkg.throttled ∧ k.level.val < v.toNat) then 2
  else 0

def issuePwrq (d a : XReg) (s : State) : Issue :=
  let v := s.x a
  .check (decide (v.toNat ≤ 7)) .illegalOperand
    (.done fun r =>
      let st := s.powerStatus v
      let r1 := if st = 0 then
          (r.onCx fun x => { x with dvfs := some (Fin.ofNat 8 v.toNat) }).relevel (clusterOf s.curTile)
        else r
      r1.flyX 2 d (BitVec.ofNat 64 st))

/-! ### Meanings -/

/-- A trap that is taken after its bundle, when the instruction issues by itself (R136). -/
def Out.after : Out → Out
  | .next s => match s.cur with
    | .hw t c => .next (s.takeAfter t c)
    | .gondola => .next s
  | o => o

def execCsrr (d : XReg) (csr : BitVec 12) (s : State) : Out := s.conclude (.csrr d csr) (issueCsrr d csr s)
def execCsrw (d a : XReg) (csr : BitVec 12) (s : State) : Out := s.conclude (.csrw d a csr) (issueCsrw d a csr s)
def execCsrs (d a : XReg) (csr : BitVec 12) (s : State) : Out := s.conclude (.csrs d a csr) (issueCsrs d a csr s)
def execCsrc (d a : XReg) (csr : BitVec 12) (s : State) : Out := s.conclude (.csrc d a csr) (issueCsrc d a csr s)
def execTrap (code : BitVec 20) (s : State) : Out := Out.after (s.conclude (.trap code) (issueTrap code s))
def execSysc (code : BitVec 20) (s : State) : Out := Out.after (s.conclude (.sysc code) (issueSysc code s))
def execEret (s : State) : Out := s.conclude .eret (issueEret s)
def execPwrq (d a : XReg) (s : State) : Out := s.conclude (.pwrq d a) (issuePwrq d a s)

end Sys2Proof.Machine
end

