-- ==== Sys2Proof/Machine/Vector.lean ====
section
/-! DEFINITION. The element-wise vector instructions, the compares and the mask stack (R140 to R153). -/

namespace Sys2Proof.Machine

/-! ### Slots, masks and landing (R142 to R146) -/

/-- Is the vector slot that the acting instruction issues in free? -/
def State.vecFree (s : State) : Bool :=
  let x := s.tile s.curTile
  match s.slot with
  | .W => decide (x.wFree ≤ x.cycle)
  | _ => decide (x.vFree ≤ x.cycle)

/-- What an issue meets where the vector slot is free; while it is occupied the issue stalls, whatever its operands
hold (R142, R75). -/
def State.whenVec (s : State) (k : Issue) : Issue := if s.vecFree then k else .stall

/-- The slot occupied for `n` clocks. -/
def State.occupy (r s : State) (n : Nat) : State :=
  r.onTile s.curTile fun x => match s.slot with
    | .W => { x with wFree := x.cycle + n }
    | _ => { x with vFree := x.cycle + n }

/-- The top mask at issue. -/
def State.top (s : State) : Mask := s.cx.regs.top

/-- Every lane. -/
def everyLane : Mask := BitVec.allOnes 1024

/-- A result of a vector instruction: its image, its flags, whether it sets MNAR. -/
structure VRes where
  vec : VImage
  fl : Fl
  mnar : Bool
  deriving DecidableEq, Repr

/-- The lanes of a mask computed; the others give nothing and raise nothing (R144). -/
def lanes (m : Mask) (f : Nat → FRes × Bool) : VRes :=
  let rs := (List.range 1024).map fun e => if m.getLsbD e then f e else ((0, 0), false)
  ⟨vimage (rs.map (·.1.1)), rs.foldl (fun a r => a ||| r.1.2) 0, rs.any (·.2)⟩

/-- A vector instruction that writes `d` under `m`: the slot, the physical register fixed at issue, the
operands' last uses after it, and the result in flight. -/
def State.vecIssue (s : State) (reads : List VUse) (d : VReg) (lat : Nat) (m : Mask) (v : VRes) : Issue :=
  if !s.vecFree then .stall
  else .ok fun r =>
    match r.claimV s d with
    | none => none
    | some (r1, pv) =>
      let r2 := (r1.occupy s 2).fly lat (.v d pv) 0 v.vec m v.fl v.mnar
      some (reads.foldl (fun r u => r.used u (some d) lat) r2)

/-- A lane-wise instruction under the top mask. -/
def State.laneOp (s : State) (reads : List VUse) (d : VReg) (lat : Nat) (f : Nat → FRes) : Issue :=
  s.vecIssue reads d lat s.top (lanes s.top fun e => (f e, false))

/-- The second source at a lane: Vb, or bits [31:0] of Xb (R141). -/
def State.vb (s : State) (b : VOrX) : Nat → HWord :=
  match b with
  | .v u => velem (s.v u.reg)
  | .x r => fun _ => s.f r

/-- A two-source instruction. -/
def State.two (s : State) (d : VReg) (a : VUse) (b : VOrX) (lat : Nat) (f : HWord → HWord → FRes) : Issue :=
  let va := s.v a.reg
  let g := s.vb b
  s.laneOp (a :: vorxV b) d lat fun e => f (velem va e) (g e)

/-- A one-source instruction. -/
def State.one (s : State) (d : VReg) (a : VUse) (lat : Nat) (f : HWord → FRes) : Issue :=
  let va := s.v a.reg
  s.laneOp [a] d lat fun e => f (velem va e)

/-- An integer result, which sets no flag. -/
def plain (w : HWord) : FRes := (w, 0)

/-- A vector shift count: the low 5 bits (R41). -/
def vshift (b : HWord) : Nat := b.toNat % 32

/-! ### Element-wise meanings at issue (R147, R148) -/

def issueVaddF (d : VReg) (a : VUse) (b : VOrX) (s : State) : Issue :=
  s.two d a b 4 (fAdd s.fp)

def issueVaddI (d : VReg) (a : VUse) (b : VOrX) (s : State) : Issue :=
  s.two d a b 2 (fun a b => plain (a + b))

def issueVsubF (d : VReg) (a : VUse) (b : VOrX) (s : State) : Issue :=
  s.two d a b 4 (fSub s.fp)

def issueVsubI (d : VReg) (a : VUse) (b : VOrX) (s : State) : Issue :=
  s.two d a b 2 (fun a b => plain (a - b))

def issueVmulF (d : VReg) (a : VUse) (b : VOrX) (s : State) : Issue :=
  s.two d a b 4 (fMul s.fp)

def issueVmulI (d : VReg) (a : VUse) (b : VOrX) (s : State) : Issue :=
  s.two d a b 2 (fun a b => plain (a * b))

def issueVminF (d : VReg) (a : VUse) (b : VOrX) (s : State) : Issue :=
  s.two d a b 2 (fMinMax false s.fp)

def issueVmaxF (d : VReg) (a : VUse) (b : VOrX) (s : State) : Issue :=
  s.two d a b 2 (fMinMax true s.fp)

def issueVminI (d : VReg) (a : VUse) (b : VOrX) (s : State) : Issue :=
  s.two d a b 2 (fun a b => plain (if b.slt a then b else a))

def issueVmaxI (d : VReg) (a : VUse) (b : VOrX) (s : State) : Issue :=
  s.two d a b 2 (fun a b => plain (if a.slt b then b else a))

def issueVand (d : VReg) (a : VUse) (b : VOrX) (s : State) : Issue :=
  s.two d a b 2 (fun a b => plain (a &&& b))

def issueVor (d : VReg) (a : VUse) (b : VOrX) (s : State) : Issue :=
  s.two d a b 2 (fun a b => plain (a ||| b))

def issueVxor (d : VReg) (a : VUse) (b : VOrX) (s : State) : Issue :=
  s.two d a b 2 (fun a b => plain (a ^^^ b))

def issueVshl (d : VReg) (a : VUse) (b : VOrX) (s : State) : Issue :=
  s.two d a b 2 (fun a b => plain (a <<< vshift b))

def issueVshr (d : VReg) (a : VUse) (b : VOrX) (s : State) : Issue :=
  s.two d a b 2 (fun a b => plain (a >>> vshift b))

def issueVsar (d : VReg) (a : VUse) (b : VOrX) (s : State) : Issue :=
  s.two d a b 2 (fun a b => plain (a.sshiftRight (vshift b)))

/-- VFMA.F reads Vd as the addend; an UNMAPPED Vd gives +0.0 (R148). -/
def issueVfmaF (d : VReg) (a : VUse) (b : VOrX) (s : State) : Issue :=
  let va := s.v a.reg
  let vd := s.v d
  let g := s.vb b
  s.laneOp (a :: vorxV b) d 4 fun e => fFma s.fp (velem va e) (g e) (velem vd e)

def issueVabsF (d : VReg) (a : VUse) (s : State) : Issue := s.one d a 2 (fSign s.fp fun w => w &&& 0x7FFFFFFF)

def issueVnegF (d : VReg) (a : VUse) (s : State) : Issue := s.one d a 2 (fSign s.fp fun w => w ^^^ 0x80000000)

/-- VSEL: CM as it stands at the start of the issue clock. -/
def issueVsel (d : VReg) (a : VUse) (b : VOrX) (s : State) : Issue :=
  let va := s.v a.reg
  let g := s.vb b
  let cm := s.cx.regs.cm
  s.laneOp (a :: vorxV b) d 2 fun e => plain (if cm.getLsbD e then velem va e else g e)

def issueVmov (d : VReg) (b : VOrX) (s : State) : Issue :=
  let g := s.vb b
  s.laneOp (vorxV b) d 2 fun e => plain (g e)

/-! ### Compares (R150, R151) -/

/-- The predicates of VCMP.I. -/
def IPred.holds (p : IPred) (a b : HWord) : Bool :=
  match p with
  | .eq => a == b
  | .ne => a != b
  | .lt => a.slt b
  | .le => !b.slt a
  | .ltu => a.ult b
  | .leu => !b.ult a

/-- A compare writes CM whole: the predicate in the lanes of the top mask, 0 elsewhere. -/
def State.compare (s : State) (a : VUse) (b : VOrX) (f : HWord → HWord → Bool × Fl) : Issue :=
  if !s.vecFree then .stall
  else
    let va := s.v a.reg
    let g := s.vb b
    let m := s.top
    let rs := (List.range 1024).map fun e => if m.getLsbD e then f (velem va e) (g e) else (false, 0)
    let cm : Nat := rs.foldr (fun r acc => r.1.toNat + 2 * acc) 0
    .done fun r =>
      let r1 := (r.occupy s 2).fly 2 .cm 0 (BitVec.ofNat 32768 cm) 0 (rs.foldl (fun a r => a ||| r.2) 0) false
      (a :: vorxV b).foldl (fun r u => r.used u none 2) r1

def issueVcmpF (p : FPred) (a : VUse) (b : VOrX) (s : State) : Issue := s.compare a b (fCmp s.fp p)

def issueVcmpI (p : IPred) (a : VUse) (b : VOrX) (s : State) : Issue :=
  s.compare a b fun x y => (IPred.holds p x y, 0)

/-! ### The mask stack (R152, R153) -/

/-- What a mask-stack instruction does: the entry written, whether one is, the value, the new depth. -/
structure MaskChange where
  entry : Fin 16
  write : Bool
  val : Mask
  depth : BitVec 5
  deriving DecidableEq, Repr

/-- MPUSH on a stack that has room. -/
def Regs.mpush (g : Regs) : MaskChange := ⟨Fin.ofNat 16 g.msd.toNat, true, g.top &&& g.cm, g.msd + 1⟩

/-- MINV on a stack of two entries or more. -/
def Regs.minv (g : Regs) : MaskChange :=
  ⟨Fin.ofNat 16 (g.msd.toNat - 1), true, g.ms[Fin.ofNat 16 (g.msd.toNat - 2)] &&& ~~~g.top, g.msd⟩

/-- MPOP on a stack of two entries or more. -/
def Regs.mpop (g : Regs) : MaskChange := ⟨0, false, 0, g.msd - 1⟩

/-- A mask-stack change on the registers. -/
def Regs.applyMask (g : Regs) (k : MaskChange) : Regs :=
  { g with ms := if k.write then g.ms.set k.entry k.val else g.ms, msd := k.depth }

/-- The change an instruction makes to the mask stack, if it is a mask-stack instruction. -/
def maskOp (g : Regs) : Instr → Option MaskChange
  | .mpush => if g.msd.toNat < 16 then some g.mpush else none
  | .minv => if 1 < g.msd.toNat then some g.minv else none
  | .mpop => if 1 < g.msd.toNat then some g.mpop else none
  | _ => none

/-- A mask-stack change in flight, one clock. -/
def State.maskIssue (s : State) (k : MaskChange) : Issue :=
  if !s.vecFree then .stall
  else .done fun r => (r.occupy s 1).fly 1 (.ms k.entry k.write k.depth) 0 (k.val.zeroExtend 32768) 0 0 false

def issueMpush (s : State) : Issue :=
  s.whenVec (.check (decide (s.cx.regs.msd.toNat < 16)) .maskOverflow (s.maskIssue s.cx.regs.mpush))

def issueMinv (s : State) : Issue :=
  s.whenVec (.check (decide (1 < s.cx.regs.msd.toNat)) .maskUnderflow (s.maskIssue s.cx.regs.minv))

def issueMpop (s : State) : Issue :=
  s.whenVec (.check (decide (1 < s.cx.regs.msd.toNat)) .maskUnderflow (s.maskIssue s.cx.regs.mpop))

/-! ### Meanings -/

def execVaddF (d : VReg) (a : VUse) (b : VOrX) (s : State) : Out :=
  s.conclude (.vaddF d a b) (issueVaddF d a b s)
def execVaddI (d : VReg) (a : VUse) (b : VOrX) (s : State) : Out :=
  s.conclude (.vaddI d a b) (issueVaddI d a b s)
def execVsubF (d : VReg) (a : VUse) (b : VOrX) (s : State) : Out :=
  s.conclude (.vsubF d a b) (issueVsubF d a b s)
def execVsubI (d : VReg) (a : VUse) (b : VOrX) (s : State) : Out :=
  s.conclude (.vsubI d a b) (issueVsubI d a b s)
def execVmulF (d : VReg) (a : VUse) (b : VOrX) (s : State) : Out :=
  s.conclude (.vmulF d a b) (issueVmulF d a b s)
def execVmulI (d : VReg) (a : VUse) (b : VOrX) (s : State) : Out :=
  s.conclude (.vmulI d a b) (issueVmulI d a b s)
def execVminF (d : VReg) (a : VUse) (b : VOrX) (s : State) : Out :=
  s.conclude (.vminF d a b) (issueVminF d a b s)
def execVmaxF (d : VReg) (a : VUse) (b : VOrX) (s : State) : Out :=
  s.conclude (.vmaxF d a b) (issueVmaxF d a b s)
def execVminI (d : VReg) (a : VUse) (b : VOrX) (s : State) : Out :=
  s.conclude (.vminI d a b) (issueVminI d a b s)
def execVmaxI (d : VReg) (a : VUse) (b : VOrX) (s : State) : Out :=
  s.conclude (.vmaxI d a b) (issueVmaxI d a b s)
def execVand (d : VReg) (a : VUse) (b : VOrX) (s : State) : Out :=
  s.conclude (.vand d a b) (issueVand d a b s)
def execVor (d : VReg) (a : VUse) (b : VOrX) (s : State) : Out :=
  s.conclude (.vor d a b) (issueVor d a b s)
def execVxor (d : VReg) (a : VUse) (b : VOrX) (s : State) : Out :=
  s.conclude (.vxor d a b) (issueVxor d a b s)
def execVshl (d : VReg) (a : VUse) (b : VOrX) (s : State) : Out :=
  s.conclude (.vshl d a b) (issueVshl d a b s)
def execVshr (d : VReg) (a : VUse) (b : VOrX) (s : State) : Out :=
  s.conclude (.vshr d a b) (issueVshr d a b s)
def execVsar (d : VReg) (a : VUse) (b : VOrX) (s : State) : Out :=
  s.conclude (.vsar d a b) (issueVsar d a b s)
def execVfmaF (d : VReg) (a : VUse) (b : VOrX) (s : State) : Out :=
  s.conclude (.vfmaF d a b) (issueVfmaF d a b s)
def execVabsF (d : VReg) (a : VUse) (s : State) : Out :=
  s.conclude (.vabsF d a) (issueVabsF d a s)
def execVnegF (d : VReg) (a : VUse) (s : State) : Out :=
  s.conclude (.vnegF d a) (issueVnegF d a s)
def execVsel (d : VReg) (a : VUse) (b : VOrX) (s : State) : Out :=
  s.conclude (.vsel d a b) (issueVsel d a b s)
def execVmov (d : VReg) (b : VOrX) (s : State) : Out :=
  s.conclude (.vmov d b) (issueVmov d b s)
def execVcmpF (p : FPred) (a : VUse) (b : VOrX) (s : State) : Out :=
  s.conclude (.vcmpF p a b) (issueVcmpF p a b s)
def execVcmpI (p : IPred) (a : VUse) (b : VOrX) (s : State) : Out :=
  s.conclude (.vcmpI p a b) (issueVcmpI p a b s)
def execMpush (s : State) : Out :=
  s.conclude .mpush (issueMpush s)
def execMinv (s : State) : Out :=
  s.conclude .minv (issueMinv s)
def execMpop (s : State) : Out :=
  s.conclude .mpop (issueMpop s)

end Sys2Proof.Machine
end

