-- ==== Sys2Proof/Machine/Lanes.lean ====
section
/-! DEFINITION. The vector instructions of the W slot (R154 to R162): result-tile reads, rotations,
broadcasts, reductions, transposition, special functions and conversions. -/

namespace Sys2Proof.Machine

/-! ### Result-tile reads (R154, R155) -/

/-- The exact value of an X-mode element (R53). -/
def resVal (te : BitVec 9) (w : HWord) : FVal :=
  let x := fromRes w
  .fin (decide (x < 0)) x.natAbs ((te.toNat : Int) - 254)

/-- An element of a result tile as VRDT writes it; an invalid triple gives a NaN and MNAR. -/
def rtRead (c : FpCtl) (r : RTile) (e : Nat) : FRes × Bool :=
  let w := velem r.val e
  if !r.xmode then (plain w, false)
  else if resValid w then (fres (f32.ofVal c (resVal r.te w)), false)
  else ((canonNan, 0), true)

/-- An element added to d with one rounding, as VACC writes it. -/
def rtAdd (c : FpCtl) (r : RTile) (d : HWord) (e : Nat) : FRes × Bool :=
  let w := velem r.val e
  if !r.xmode then (fAdd c d w, false)
  else if resValid w then (fres (f32.addVals c (fin32 c d) (resVal r.te w)), false)
  else ((canonNan, (fin32 c d).sig), true)

def issueVrdt (d : VReg) (t : RtReg) (s : State) : Issue :=
  let r := s.cx.rts[t]
  s.whenVec (.check (!r.busy) .scheduleViolation (s.vecIssue [] d 6 s.top (lanes s.top (rtRead s.fp r))))

def issueVacc (d : VReg) (t : RtReg) (s : State) : Issue :=
  let r := s.cx.rts[t]
  let vd := s.v d
  s.whenVec (.check (!r.busy) .scheduleViolation
    (s.vecIssue [] d 6 s.top (lanes s.top fun e => rtAdd s.fp r (velem vd e) e)))

/-! ### Rotations and broadcasts (R156, R157) -/

/-- The amount of a rotation or broadcast. -/
def State.amount (s : State) : VAmt → Nat
  | .imm n => n.toNat
  | .reg r => (s.x r).toNat

/-- An instruction that moves whole elements: element e comes from element `src e` of Va. -/
def State.move (s : State) (d : VReg) (a : VUse) (lat : Nat) (src : Nat → Nat) : Issue :=
  let va := s.v a.reg
  s.laneOp [a] d lat fun e => plain (velem va (src e))

def issueVrotr (d : VReg) (a : VUse) (n : VAmt) (s : State) : Issue :=
  let k := s.amount n % 64
  s.move d a 3 fun e => e / 64 * 64 + (e % 64 + k) % 64

def issueVrotc (d : VReg) (a : VUse) (n : VAmt) (s : State) : Issue :=
  let k := s.amount n % 16
  s.move d a 5 fun e => (e / 64 + k) % 16 * 64 + e % 64

def issueVbcr (d : VReg) (a : VUse) (n : VAmt) (s : State) : Issue :=
  let k := s.amount n
  s.whenVec (.check (decide (k ≤ 63)) .illegalOperand (s.move d a 3 fun e => e / 64 * 64 + k))

def issueVbcc (d : VReg) (a : VUse) (n : VAmt) (s : State) : Issue :=
  let k := s.amount n
  s.whenVec (.check (decide (k ≤ 15)) .illegalOperand (s.move d a 5 fun e => k * 64 + e % 64))

/-- Each 16 × 16 block transposed: element (r, 16b + c) comes from (c, 16b + r). -/
def issueVtrn (d : VReg) (a : VUse) (s : State) : Issue :=
  s.move d a 6 fun e => e % 64 % 16 * 64 + e % 64 / 16 * 16 + e / 64

/-! ### Reductions (R58, R158) -/

/-- A node of the tree. -/
def RedOp.node (op : RedOp) (c : FpCtl) (a b : HWord) : FRes :=
  match op with
  | .add => fAdd c a b
  | .max => fMinMax true c a b
  | .min => fMinMax false c a b
  | .iadd => plain (a + b)

/-- One level: adjacent values combined. -/
def redLevel (op : RedOp) (c : FpCtl) : List HWord → List HWord × Fl
  | a :: b :: l =>
    let r := RedOp.node op c a b
    let q := redLevel op c l
    (r.1 :: q.1, r.2 ||| q.2)
  | l => (l, 0)

/-- The fixed pairwise tree, `n` levels. -/
def redTree (op : RedOp) (c : FpCtl) : Nat → List HWord → FRes
  | 0, l => (l.headD 0, 0)
  | n + 1, l =>
    let q := redLevel op c l
    let r := redTree op c n q.1
    (r.1, q.2 ||| r.2)

/-- A reduction: group g of the lanes, the groups' results in every lane, flags from groups with a
written lane. -/
def State.reduce (s : State) (d : VReg) (a : VUse) (lat groups levels : Nat) (op : RedOp)
    (member : Nat → List Nat) (groupOf : Nat → Nat) : Issue :=
  let va := s.v a.reg
  let rs := (List.range groups).map fun g => redTree op s.fp levels ((member g).map (velem va))
  s.vecIssue [a] d lat s.top (lanes s.top fun e => (rs.getD (groupOf e) (0, 0), false))

def issueVredr (op : RedOp) (d : VReg) (a : VUse) (s : State) : Issue :=
  s.reduce d a 8 16 6 op (fun g => (List.range 64).map (64 * g + ·)) (· / 64)

def issueVredc (op : RedOp) (d : VReg) (a : VUse) (s : State) : Issue :=
  s.reduce d a 7 64 4 op (fun g => (List.range 16).map (64 * · + g)) (· % 64)

/-! ### Special functions (R59, R159) -/

def issueVexp2 (d : VReg) (a : VUse) (s : State) : Issue := s.one d a 12 (special 0 s.fp)
def issueVlog2 (d : VReg) (a : VUse) (s : State) : Issue := s.one d a 12 (special 1 s.fp)
def issueVexp (d : VReg) (a : VUse) (s : State) : Issue := s.one d a 12 (special 2 s.fp)
def issueVlog (d : VReg) (a : VUse) (s : State) : Issue := s.one d a 12 (special 3 s.fp)
def issueVrcp (d : VReg) (a : VUse) (s : State) : Issue := s.one d a 12 (special 4 s.fp)
def issueVrsq (d : VReg) (a : VUse) (s : State) : Issue := s.one d a 12 (special 5 s.fp)
def issueVtanh (d : VReg) (a : VUse) (s : State) : Issue := s.one d a 12 (special 6 s.fp)
def issueVsigm (d : VReg) (a : VUse) (s : State) : Issue := s.one d a 12 (special 7 s.fp)

/-! ### Conversions (R160 to R162) -/

/-- VCVT on one element. -/
def vcvtElem (op : VcvtOp) (c : FpCtl) (a : HWord) : FRes :=
  let int := fun n => let r := f32ToInt c n a; ((BitVec.ofInt 32 r.1, r.2) : FRes)
  match op with
  | .f2h => f32ToSmall f16 c a
  | .f2b => f32ToSmall b16 c a
  | .h2f => smallToF32 f16 c a
  | .b2f => smallToF32 b16 c a
  | .f2w => int 32
  | .f2s => int 16
  | .f2c => int 8
  | .w2f => intToF32 c a.toInt
  | .s2f => intToF32 c (a.extractLsb' 0 16).toInt
  | .c2f => intToF32 c (a.extractLsb' 0 8).toInt

def issueVcvt (op : VcvtOp) (d : VReg) (a : VUse) (s : State) : Issue := s.one d a 4 (vcvtElem op s.fp)

/-- The elements of record j: row j / 2, columns 32 (j % 2) on (R161). -/
def recElems (j : Nat) : List Nat := (List.range 32).map fun i => j / 2 * 64 + 32 * (j % 2) + i

/-- VNARW writes the record image whole, whatever the mask. -/
def issueVnarw (w : RecWidth) (d : VReg) (a : VUse) (s : State) : Issue :=
  let va := s.v a.reg
  let rs := (List.range 32).map fun j => narrow s.fp w ((recElems j).map (velem va))
  let img : Nat := rs.foldr (fun r acc => r.1 + 2 ^ (8 * recBytes w) * acc) 0
  s.vecIssue [a] d 8 everyLane ⟨BitVec.ofNat 32768 img, rs.foldl (fun f r => f ||| r.2) 0, false⟩

/-- VWIDN reads the record image in Va. -/
def issueVwidn (w : RecWidth) (d : VReg) (a : VUse) (s : State) : Issue :=
  let va := s.v a.reg
  let record := fun (j : Nat) => (va.extractLsb' (8 * recBytes w * j) (8 * recBytes w)).toNat
  s.vecIssue [a] d 5 s.top (lanes s.top fun e => widen s.fp w (record (e / 64 * 2 + e % 64 / 32)) (e % 32))

/-! ### Meanings -/

def execVrdt (d : VReg) (t : RtReg) (s : State) : Out :=
  s.conclude (.vrdt d t) (issueVrdt d t s)
def execVacc (d : VReg) (t : RtReg) (s : State) : Out :=
  s.conclude (.vacc d t) (issueVacc d t s)
def execVrotr (d : VReg) (a : VUse) (n : VAmt) (s : State) : Out :=
  s.conclude (.vrotr d a n) (issueVrotr d a n s)
def execVrotc (d : VReg) (a : VUse) (n : VAmt) (s : State) : Out :=
  s.conclude (.vrotc d a n) (issueVrotc d a n s)
def execVbcr (d : VReg) (a : VUse) (n : VAmt) (s : State) : Out :=
  s.conclude (.vbcr d a n) (issueVbcr d a n s)
def execVbcc (d : VReg) (a : VUse) (n : VAmt) (s : State) : Out :=
  s.conclude (.vbcc d a n) (issueVbcc d a n s)
def execVtrn (d : VReg) (a : VUse) (s : State) : Out :=
  s.conclude (.vtrn d a) (issueVtrn d a s)
def execVredr (op : RedOp) (d : VReg) (a : VUse) (s : State) : Out :=
  s.conclude (.vredr op d a) (issueVredr op d a s)
def execVredc (op : RedOp) (d : VReg) (a : VUse) (s : State) : Out :=
  s.conclude (.vredc op d a) (issueVredc op d a s)
def execVexp2 (d : VReg) (a : VUse) (s : State) : Out :=
  s.conclude (.vexp2 d a) (issueVexp2 d a s)
def execVlog2 (d : VReg) (a : VUse) (s : State) : Out :=
  s.conclude (.vlog2 d a) (issueVlog2 d a s)
def execVexp (d : VReg) (a : VUse) (s : State) : Out :=
  s.conclude (.vexp d a) (issueVexp d a s)
def execVlog (d : VReg) (a : VUse) (s : State) : Out :=
  s.conclude (.vlog d a) (issueVlog d a s)
def execVrcp (d : VReg) (a : VUse) (s : State) : Out :=
  s.conclude (.vrcp d a) (issueVrcp d a s)
def execVrsq (d : VReg) (a : VUse) (s : State) : Out :=
  s.conclude (.vrsq d a) (issueVrsq d a s)
def execVtanh (d : VReg) (a : VUse) (s : State) : Out :=
  s.conclude (.vtanh d a) (issueVtanh d a s)
def execVsigm (d : VReg) (a : VUse) (s : State) : Out :=
  s.conclude (.vsigm d a) (issueVsigm d a s)
def execVcvt (op : VcvtOp) (d : VReg) (a : VUse) (s : State) : Out :=
  s.conclude (.vcvt op d a) (issueVcvt op d a s)
def execVnarw (w : RecWidth) (d : VReg) (a : VUse) (s : State) : Out :=
  s.conclude (.vnarw w d a) (issueVnarw w d a s)
def execVwidn (w : RecWidth) (d : VReg) (a : VUse) (s : State) : Out :=
  s.conclude (.vwidn w d a) (issueVwidn w d a s)

end Sys2Proof.Machine
end

