-- ==== Sys2Proof/Machine/Matrix.lean ====
section
/-! DEFINITION. The matrix engine (R45 to R53, R164 to R181): the arithmetic of an array operation,
admission and the scoreboard, and what happens at a result clock. -/

namespace Sys2Proof.Machine

/-! ### Types (R165, R166) -/

def MType.width : MType → Option RecWidth
  | .rb8 => some .rb8
  | .rb6 => some .rb6
  | .rb4 => some .rb4
  | .fp16 => none
  | .bf16 => none

/-- The bytes of a record. -/
def MType.recBytes : MType → Nat
  | .rb8 => 33 | .rb6 => 25 | .rb4 => 17 | .fp16 => 64 | .bf16 => 64

/-- A record of a panel as a number. -/
def Panel.record (p : Panel) (r : Nat) : Nat :=
  (p.data.extractLsb' (8 * MType.recBytes p.ty * r) (8 * MType.recBytes p.ty)).toNat

/-- The scale byte of a block record. -/
def scaleOf (r : Nat) : Nat := r % 256

/-- Element i of a block record of a type, none for NaR. -/
def blockElem (ty : MType) (r i : Nat) : Option Int :=
  match MType.width ty with
  | some w => recElem w r i
  | none => none

/-! ### Steps of block operations (R49, R51, R170) -/

/-- What one K-step or half-step gives one element: the combined exponent, whether a scale is NaR, and
the exact sum of products, none where an element is NaR. -/
structure KStep where
  e : Nat
  scaleNar : Bool
  sum : Option Int
  deriving DecidableEq, Repr

/-- The sum of products at pairs of positions. -/
def dotAt (fa fb : MType) (ra rb : Nat) (ps : List (Nat × Nat)) : Option Int :=
  ps.foldl (fun acc q => match acc, blockElem fa ra q.1, blockElem fb rb q.2 with
    | some s, some a, some b => some (s + a * b)
    | _, _, _ => none) (some 0)

/-- A step of A record `ra` and B record `rb` over pairs of positions. -/
def kstep (fa fb : MType) (ra rb : Nat) (ps : List (Nat × Nat)) : KStep :=
  ⟨scaleOf ra + scaleOf rb, scaleOf ra == 255 || scaleOf rb == 255, dotAt fa fb ra rb ps⟩

/-- The pairs of a dense step: all 32 positions. -/
def densePairs : List (Nat × Nat) := (List.range 32).map fun i => (i, i)

/-- The pairs of half-step h under the metadata word W_j: the A positions kept and the B elements (R169). -/
def sparsePairs (w h : Nat) : List (Nat × Nat) :=
  (List.range 8).flatMap fun k =>
    let g := 8 * h + k
    [(4 * k + w / 2 ^ (2 * g) % 2, 2 * g), (4 * k + 2 + w / 2 ^ (2 * g + 1) % 2, 2 * g + 1)]

/-- The steps of an element of MMA. -/
def denseSteps (fa fb : MType) (i j : Nat) : List Panel → List Panel → List KStep
  | a :: as, b :: bs => kstep fa fb (a.record i) (b.record j) densePairs :: denseSteps fa fb i j as bs
  | _, _ => []

/-- The half-steps of an element of MMAS: two A panels for each B panel and metadata entry. -/
def sparseSteps (fa fb : MType) (i j : Nat) : List Panel → List Panel → List MetaEntry → List KStep
  | a0 :: a1 :: as, b :: bs, q :: qs =>
    let w := (q.data.extractLsb' (32 * j) 32).toNat
    kstep fa fb (a0.record i) (b.record j) (sparsePairs w 0)
      :: kstep fa fb (a1.record i) (b.record j) (sparsePairs w 1) :: sparseSteps fa fb i j as bs qs
  | _, _, _ => []

/-- F mode (R49): runs of steps of one exponent, cut after `cut` steps; `len`, `e` and `sum` are the
open run. -/
def fRuns (cut : Nat) (c : HWord) (len e : Nat) (sum : Int) : List KStep → HWord
  | [] => if len = 0 then c else addRun c e sum
  | k :: ks =>
    let v := k.sum.getD 0
    if len = 0 then fRuns cut c 1 k.e v ks
    else if k.e = e ∧ len < cut then fRuns cut c (len + 1) e (sum + v) ks
    else fRuns cut (addRun c e sum) 1 k.e v ks
where
  /-- A run's sum added with one rounding, RNE; a sum of 0 adds +0. -/
  addRun (c : HWord) (e : Nat) (sum : Int) : HWord :=
    (fres (f32.addVals FpCtl.engine (fin32 FpCtl.engine c)
      (.fin (decide (sum < 0)) sum.natAbs ((e : Int) - 254)))).1

/-- An element in F mode with whether a NaR fed it. -/
def fElem (cut : Nat) (c : HWord) (ks : List KStep) : HWord × Bool :=
  if ks.any fun k => k.sum.isNone then (canonNan, true) else (fRuns cut c 0 0 0 ks, false)

/-- An element in X mode with MNAR and ALIGN (R51, R52). -/
def xElem (te : Nat) (c : HWord) : List KStep → HWord × Bool × Bool
  | [] => (c, false, false)
  | k :: ks =>
    if !k.scaleNar ∧ (k.e < te ∨ te + 7 < k.e) then
      let r := xElem te c ks
      (r.1, r.2.1, true)
    else match k.sum with
    | none =>
      let r := xElem te resNar ks
      (r.1, true, r.2.2)
    | some p => xElem te (if resValid c then resAdd c (toRes (p * 2 ^ (k.e - te))) else resNar) ks

/-! ### MMAF (R50) -/

def floatFmt : MType → Fmt
  | .bf16 => b16
  | _ => f16

/-- Element i of a float record. -/
def floatElem (ty : MType) (r i : Nat) : FVal := (floatFmt ty).unpack (r / 2 ^ (16 * i) % 65536)

/-- The exact sum of products with the signs of zero of R50. -/
def exactSum (ps : List FVal) : FVal :=
  let infs := ps.filterMap fun p => match p with
    | .inf n => some n
    | _ => none
  if ps.any FVal.isNan then .nan false
  else match infs with
  | n :: ns => if ns.all (· == n) then .inf n else .nan false
  | [] =>
    let e0 := ps.foldl (fun m p => match p with
      | .fin _ _ e => min m e
      | _ => m) 0
    let v := ps.foldl (fun s p => match p with
      | .fin n m e => s + scaleTo n m e e0
      | _ => s) (0 : Int)
    if v = 0 then .fin (ps.all fun p => match p with
      | .fin n m _ => n && m == 0
      | _ => false) 0 e0
    else .fin (decide (v < 0)) v.natAbs e0

/-- One K-step of MMAF into an element. -/
def floatStep (ty : MType) (c : HWord) (ra rb : Nat) : HWord :=
  let s := exactSum ((List.range 32).map fun m => (mulVals (floatElem ty ra m) (floatElem ty rb m)).1)
  let r := (f32.ofVal FpCtl.engine s).1
  (fAdd FpCtl.engine c (BitVec.ofNat 32 r)).1

def floatSteps (ty : MType) (i j : Nat) (c : HWord) : List Panel → List Panel → HWord
  | a :: as, b :: bs => floatSteps ty i j (floatStep ty c (a.record i) (b.record j)) as bs
  | _, _ => c

/-! ### An array operation's result (R174) -/

/-- One element of the result, with MNAR and ALIGN. -/
def arrayElem (r : RTile) (opc : Nat) (fa fb : MType) (acc : Bool) (af bf : List Panel) (mq : List MetaEntry)
    (e : Nat) : HWord × Bool × Bool :=
  let i := e / 64
  let j := e % 64
  let c := if acc then velem r.val e else 0
  if opc = 0x71 then (floatSteps fa i j c af bf, false, false)
  else
    let ks := if opc = 0x70 then denseSteps fa fb i j af bf else sparseSteps fa fb i j af bf mq
    if r.xmode then xElem r.te.toNat c ks
    else
      let v := fElem (if opc = 0x70 then 16 else 32) c ks
      (v.1, v.2, false)

/-- The new contents of a result tile, with MNAR and ALIGN. -/
def MatOp.result (m : MatOp) (r : RTile) : VImage × Bool × Bool :=
  match m.kind with
  | .zero => (0, false, false)
  | .put v => (v, false, false)
  | .array opc _ fa fb acc =>
    let es := (List.range 1024).map (arrayElem r opc fa fb acc m.af m.bf m.mq)
    (vimage (es.map (·.1)), es.any (·.2.1), es.any (·.2.2))

/-- Another operation of the context still keeps a tile busy. -/
def stillBusy (ms : List MatOp) (r : RtReg) : Bool := ms.any fun m => m.rt == r

/-- The result clock of an operation: RTd and its shadow written, the entries freed, TO lowered, STKY
set (R172). -/
def Ctx.land (x : Ctx) (m : MatOp) (rest : List MatOp) : Ctx :=
  let r := x.rts[m.rt]
  let v := m.result r
  let bits : Word := (if v.2.1 then 1 else 0) ||| (if v.2.2 then 2 else 0)
  { x with
    rts := x.rts.set m.rt { r with val := v.1, shadow := v.1, busy := stillBusy rest m.rt },
    regs := { x.regs with tok := x.regs.tok - 1, stky := x.regs.stky ||| bits },
    stkyNow := x.stkyNow ||| bits, mops := rest }

/-- The results due, in order of admission. -/
def Ctx.landDue (x : Ctx) (now : Nat) : List MatOp → Ctx
  | [] => x
  | m :: ms =>
    if m.due ≤ now then (x.land m (x.mops.filter fun k => k != m)).landDue now ms else x.landDue now ms

/-- MATRIX_RESULT. -/
def execMatrixResult (t : TileNo) (c : CtxNo) (s : State) : Out :=
  .next (s.onCtx t c fun x => x.landDue (s.tile t).cycle x.mops)

/-! ### Admission (R171 to R173) -/

/-- Is a combination implemented: its clocks per K-step (R166)? -/
def comboClocks (opc : Nat) (fa fb : MType) : Option Nat :=
  if opc = 0x70 then match fa, fb with
    | .rb4, .rb4 => some 1
    | .rb8, .rb8 => some 2
    | .rb8, .rb6 => some 2
    | .rb8, .rb4 => some 2
    | .rb6, .rb6 => some 2
    | _, _ => none
  else if opc = 0x72 then match fa, fb with
    | .rb4, .rb4 => some 1
    | .rb8, .rb8 => some 2
    | .rb8, .rb4 => some 2
    | _, _ => none
  else match fa, fb with
    | .fp16, .fp16 => some 8
    | .bf16, .bf16 => some 8
    | _, _ => none

/-- May an accumulate chain on a busy tile (R173)? -/
def chains (r : RTile) (opc : Nat) (fa fb : MType) (acc : Bool) (order : Nat) : Bool :=
  acc && match r.last with
    | .put => true
    | .array o a b n => o == opc && a == fa && b == fb && n == order

/-- The state of a tile written by an admitted operation: its entry-time value logged, its contents in
the shadow, busy (R20, R319). -/
def State.claimRt (r s : State) (n : RtReg) (f : RTile → RTile) : State :=
  let r0 := match s.cur with
    | .hw t c => r.logUndo t c (.rt n ((r.ctxAt t c).rts[n]))
    | .gondola => r
  r0.onCx fun x =>
    let t := x.rts[n]
    let t1 := if t.busy then t else { t with shadow := t.val }
    { x with rts := x.rts.set n (f { t1 with busy := true }) }

/-- An admitted operation joins those in flight, and TO rises. -/
def State.admitOp (r : State) (m : MatOp) : Option State :=
  r.addTo.map fun r => r.onCx fun x => { x with mops := x.mops ++ [m] }

/-- The array operation `i`: `na` A panels, `nb` B panels and `nq` metadata entries. -/
def State.array (s : State) (i : Instr) (d : RtReg) (opc : Nat) (fa fb : MType) (acc : Bool) (n na nb nq : Nat) : Issue :=
  let x := s.cx
  let r := x.rts[d]
  let tl := s.tile s.curTile
  match comboClocks opc fa fb with
  | none => .trap .illegalCombination
  | some k =>
    if opc = 0x71 ∧ r.xmode then .trap .illegalCombination
    else if x.af.length < na ∨ x.bf.length < nb ∨ x.mq.length < nq then .block
    else if !((x.af.take na).all fun p => p.ty == fa) || !((x.bf.take nb).all fun p => p.ty == fb) then
      .trap .streamType
    else if tl.cycle < tl.arrayFree ∨ (r.busy ∧ !chains r opc fa fb acc tl.arrayOrder) then .stall
    else
      let m : MatOp := ⟨s.clock + (if opc = 0x71 then 14 else 10) + k * n, s.clock, d,
        (encode (s.flagged i)).headD 0, .array opc n fa fb acc, x.af.take na, x.bf.take nb, x.mq.take nq⟩
      let bad := (m.af.any fun p => p.poison) || (m.bf.any fun p => p.poison) || m.mq.any fun p => p.poison
      .ok fun r => (r.admitOp m).map fun r =>
        let r1 := r.onCx fun x => { x with af := x.af.drop na, bf := x.bf.drop nb, mq := x.mq.drop nq }
        let r2 := r1.onTile s.curTile fun y =>
          { y with arrayFree := y.cycle + k * n, arrayOrder := y.arrayOrder + 1 }
        let r3 := r2.claimRt s d fun t => { t with last := .array opc fa fb (tl.arrayOrder + 1) }
        if bad then r3.poisonTask s.curTile s.curCtx else r3

/-- MZERO and MPUT: a non-chaining write that takes two clocks (R175, R176). -/
def State.setTileOp (s : State) (d : RtReg) (kind : MKind) (f : RTile → RTile) (k : State → State) : Issue :=
  if (s.cx.rts[d]).busy then .stall
  else .ok fun r => (r.admitOp ⟨s.clock + 2, s.clock, d, 0, kind, [], [], []⟩).map fun r =>
    k (r.claimRt s d fun t => f { t with last := .put })

/-! ### Meanings at issue -/

def issueMma (d : RtReg) (n : BitVec 5) (fa fb : MType) (acc : Bool) (s : State) : Issue :=
  s.array (.mma d n fa fb acc) d 0x70 fa fb acc (n.toNat + 1) (n.toNat + 1) (n.toNat + 1) 0

def issueMmaf (d : RtReg) (n : BitVec 5) (fa fb : MType) (acc : Bool) (s : State) : Issue :=
  s.array (.mmaf d n fa fb acc) d 0x71 fa fb acc (n.toNat + 1) (n.toNat + 1) (n.toNat + 1) 0

def issueMmas (d : RtReg) (n : BitVec 4) (fa fb : MType) (acc : Bool) (s : State) : Issue :=
  s.array (.mmas d n fa fb acc) d 0x72 fa fb acc (n.toNat + 1) (2 * (n.toNat + 1)) (n.toNat + 1) (n.toNat + 1)

def issueMzero (d : RtReg) (te : Option (BitVec 9)) (s : State) : Issue :=
  s.setTileOp d .zero (fun t => { t with xmode := te.isSome, te := te.getD 0 }) id

def issueMput (d : RtReg) (a : VUse) (s : State) : Issue :=
  s.setTileOp d (.put (s.v a.reg)) id fun r => r.used a none 2

/-- Are `n` entries of a selected stream available, and of the type? -/
def enough (sel : Option MType) (n : Nat) (l : List Panel) : Bool := sel.isNone || decide (n ≤ l.length)
def tagged (sel : Option MType) (n : Nat) (l : List Panel) : Bool :=
  match sel with
  | some ty => (l.take n).all fun p => p.ty == ty
  | none => true

def issueMskip (n : BitVec 5) (sa sb : Option MType) (sq : Bool) (s : State) : Issue :=
  let x := s.cx
  let k := n.toNat + 1
  if !enough sa k x.af || !enough sb k x.bf || (sq && decide (x.mq.length < k)) then .block
  else .check (tagged sa k x.af && tagged sb k x.bf) .streamType
    (.done fun r => r.onCx fun y => { y with
      af := if sa.isSome then y.af.drop k else y.af, bf := if sb.isSome then y.bf.drop k else y.bf,
      mq := if sq then y.mq.drop k else y.mq })

def issueMdrain (sa sb sq : Bool) (_s : State) : Issue :=
  .done fun r => r.onCx fun y => { y with
    af := if sa then [] else y.af, bf := if sb then [] else y.bf, mq := if sq then [] else y.mq }

/-- MSTAT's word (R177). -/
def RTile.stat (r : RTile) : Word :=
  BitVec.ofNat 64 (r.busy.toNat * 2 ^ 17 + r.xmode.toNat * 2 ^ 16 + (if r.xmode then r.te.toNat else 0))

def issueMstat (d : XReg) (t : RtReg) (s : State) : Issue := .done fun r => r.flyX 1 d (s.cx.rts[t]).stat

/-! ### Meanings -/

def execMma (d : RtReg) (n : BitVec 5) (fa fb : MType) (acc : Bool) (s : State) : Out :=
  s.conclude (.mma d n fa fb acc) (issueMma d n fa fb acc s)
def execMmaf (d : RtReg) (n : BitVec 5) (fa fb : MType) (acc : Bool) (s : State) : Out :=
  s.conclude (.mmaf d n fa fb acc) (issueMmaf d n fa fb acc s)
def execMmas (d : RtReg) (n : BitVec 4) (fa fb : MType) (acc : Bool) (s : State) : Out :=
  s.conclude (.mmas d n fa fb acc) (issueMmas d n fa fb acc s)
def execMzero (d : RtReg) (te : Option (BitVec 9)) (s : State) : Out := s.conclude (.mzero d te) (issueMzero d te s)
def execMput (d : RtReg) (a : VUse) (s : State) : Out := s.conclude (.mput d a) (issueMput d a s)
def execMskip (n : BitVec 5) (sa sb : Option MType) (sq : Bool) (s : State) : Out :=
  s.conclude (.mskip n sa sb sq) (issueMskip n sa sb sq s)
def execMdrain (sa sb sq : Bool) (s : State) : Out := s.conclude (.mdrain sa sb sq) (issueMdrain sa sb sq s)
def execMstat (d : XReg) (t : RtReg) (s : State) : Out := s.conclude (.mstat d t) (issueMstat d t s)

end Sys2Proof.Machine
end

