-- ==== Sys2Proof/Machine/Pslot.lean ====
section
/-! DEFINITION. The P slot (R183 to R201): scratchpad loads, stores and atomics, barriers, the bay table,
and the steps of reference forms at a barrier. -/

namespace Sys2Proof.Machine

/-! ### Accesses (R185, R187, R188) -/

/-- Ranges relative to an address, placed. -/
def shift (o : Nat) (rel : Ranges) : Ranges := rel.map fun q => (o + q.1, q.2)

/-- Does a range of scratchpad bytes hold poison? -/
def Tile.spBad (x : Tile) (rs : Ranges) : Bool := rs.any fun q => anyPoison x.spPoison q.1 q.2

/-- The readers of scratchpad ranges other than their writers expose those (R320). -/
def State.readRanges (s : State) (rs : Ranges) : State :=
  rs.foldl (fun s q => s.readExposes s.curTile (some s.curCtx) q.1 q.2) s

/-- A form N access that reads the ranges `rel` from EA on: what it read was there at the start of the
clock, and poison among it poisons the task (R323). -/
def State.pRead (s : State) (l : PLoc) (u : BayUse) (align : Nat) (rel : Ranges)
    (k : Nat → State → Option State) : Issue :=
  s.withBay l u align (fun ea => shift ea rel) fun o =>
    .ok fun r =>
      let r1 := r.readRanges (shift o rel)
      if (s.tile s.curTile).spBad (shift o rel) then some (r1.poisonTask s.curTile s.curCtx)
      else (k o r1).map fun r => r.stepA s l.ps l.ai

/-- The bytes of the scratchpad that a write of a context is about to change, kept for the tile's commands that have still
to read a bay: a source reads as at the command's issue (R293). -/
def Tile.keepUnder (x : Tile) (o n : Nat) : Tile :=
  if x.cmds.any fun k => k.srcBay.isSome && k.unread then
    let old := x.readSp o n
    { x with cmds := x.cmds.map fun k =>
      if k.srcBay.isSome ∧ k.unread then { k with underSp := k.underSp ++ [(o, old)] } else k }
  else x

/-- The old bytes under a scratchpad write logged, and the write made (R188, R319). -/
def State.pPut (s : State) (o : Nat) (bs : List Byte) : State :=
  (s.logScratch s.curTile s.curCtx o bs.length).onTile s.curTile fun x => (x.keepUnder o bs.length).writeSp o bs

/-- A bay's entry changed by the acting context, logged for rollback (R319). -/
def State.changeBay (s : State) (n : BayNo) (f : Bay → Bay) : State :=
  (s.logUndo s.curTile s.curCtx (.bay n (s.bay n))).onTile s.curTile fun x => x.onBay n f

/-- A plain store into an EMPTY bay makes it READY (R183). -/
def State.fillBay (s : State) (n : BayNo) : State :=
  if (s.bay n).st = .empty then s.changeBay n fun b => { b with st := .ready } else s

/-- A form N store of pieces at places relative to EA, in their order. -/
def State.pWrite (s : State) (l : PLoc) (align : Nat) (rel : Ranges) (put : List (Nat × List Byte))
    (k : State → State) : Issue :=
  s.withBay l .store align (fun ea => shift ea rel) fun o =>
    .done fun r => k ((put.foldl (fun r q => r.pPut (o + q.1) q.2) (r.fillBay l.bay)).stepA s l.ps l.ai)

/-! ### Vector images (R13, R196) -/

/-- The bytes of an image's part. -/
def imgBytes (v : VImage) (o n : Nat) : List Byte := bytesOfNat n (v.extractLsb' (8 * o) (8 * n)).toNat

/-- An image from pieces of bytes at its offsets. -/
def imgOf (ps : List (Nat × List Byte)) : VImage :=
  BitVec.ofNat 32768 (ps.map fun q => natOfBytes q.2 * 2 ^ (8 * q.1)).sum

/-- The mask of the rows `row` to `row + n - 1`. -/
def rowMask (row n : Nat) : Mask := BitVec.ofNat 1024 ((2 ^ (64 * n) - 1) * 2 ^ (64 * row))

/-- A vector load: pieces of the register from ranges, under a mask. -/
def State.vecLoad (s : State) (d : VReg) (l : PLoc) (reads : List VUse) (m : Mask) (src : List (Nat × Nat × Nat)) : Issue :=
  s.pRead l .load 4 (src.map fun q => (q.2.1, q.2.2)) fun o r =>
    match r.claimV s d with
    | none => none
    | some (r1, pv) =>
      let v := imgOf (src.map fun q => (q.1, (s.tile s.curTile).readSp (o + q.2.1) q.2.2))
      some (reads.foldl (fun r u => r.used u (some d) 6) (r1.fly 6 (.v d pv) 0 v m 0 false))

/-- The rows of a register at a stride from EA. -/
def rowsAt (str : Nat) : List (Nat × Nat × Nat) := (List.range 16).map fun r => (256 * r, str * r, 256)

/-- The lanes a mask selects with the places Vi gives them. -/
def State.lanesAt (s : State) (i : VReg) : List (Nat × Nat) :=
  ((List.range 1024).filter fun e => s.cx.regs.top.getLsbD e).map fun e => (e, 4 * (velem (s.v i) e).toNat)

def issuePld (d : VReg) (l : PLoc) (s : State) : Issue := s.vecLoad d l [] everyLane [(0, 0, 4096)]

def issuePldb (d : VReg) (l : PLoc) (row nr : BitVec 4) (s : State) : Issue :=
  s.vecLoad d l [] (rowMask row.toNat (nr.toNat + 1)) [(256 * row.toNat, 0, 256 * (nr.toNat + 1))]

def issuePlds (d : VReg) (l : PLoc) (str : BitVec 8) (s : State) : Issue :=
  s.vecLoad d l [] everyLane (rowsAt (64 * str.toNat))

def issuePldx (d : VReg) (l : PLoc) (i : VUse) (s : State) : Issue :=
  s.vecLoad d l [i] s.cx.regs.top ((s.lanesAt i.reg).map fun q => (4 * q.1, q.2, 4))

def issuePst (v : VUse) (l : PLoc) (s : State) : Issue :=
  s.pWrite l 4 [(0, 4096)] [(0, imgBytes (s.v v.reg) 0 4096)] fun r => r.used v none 1

def issuePstb (v : VUse) (l : PLoc) (row nr : BitVec 4) (s : State) : Issue :=
  let n := 256 * (nr.toNat + 1)
  s.pWrite l 4 [(0, n)] [(0, imgBytes (s.v v.reg) (256 * row.toNat) n)] fun r => r.used v none 1

def issuePsts (v : VUse) (l : PLoc) (str : BitVec 8) (s : State) : Issue :=
  let rows := rowsAt (64 * str.toNat)
  s.pWrite l 4 (rows.map fun q => (q.2.1, q.2.2)) (rows.map fun q => (q.2.1, imgBytes (s.v v.reg) q.1 256))
    fun r => r.used v none 1

def issuePstx (v : VUse) (l : PLoc) (i : VUse) (s : State) : Issue :=
  let ls := s.lanesAt i.reg
  s.pWrite l 4 (ls.map fun q => (q.2, 4)) (ls.map fun q => (q.2, bytesOfNat 4 (velem (s.v v.reg) q.1).toNat))
    fun r => (r.used v none 1).used i none 1

/-- PSTM: the bytes of its 4,096 are checked, the elements under the mask are written. -/
def issuePstm (v : VUse) (l : PLoc) (s : State) : Issue :=
  let es := (List.range 1024).filter fun e => s.cx.regs.top.getLsbD e
  s.pWrite l 4 [(0, 4096)] (es.map fun e => (4 * e, bytesOfNat 4 (velem (s.v v.reg) e).toNat))
    fun r => r.used v none 1

/-! ### Scalar accesses and atomics (R197, R198) -/

/-- A value of some bytes extended to 64 bits. -/
def extended (sx : Bool) (sz : Size) (bs : List Byte) : Word :=
  let n := natOfBytes bs
  let w := 8 * Size.bytes sz
  if sx ∧ n.testBit (w - 1) then BitVec.ofInt 64 ((n : Int) - 2 ^ w) else BitVec.ofNat 64 n

def issuePldsc (sx : Bool) (sz : Size) (d : XReg) (l : PLoc) (s : State) : Issue :=
  s.pRead l .load (Size.bytes sz) [(0, Size.bytes sz)] fun o r =>
    some (r.flyX 6 d (extended sx sz ((s.tile s.curTile).readSp o (Size.bytes sz))))

def issuePstsc (sz : Size) (x : XReg) (l : PLoc) (s : State) : Issue :=
  s.pWrite l (Size.bytes sz) [(0, Size.bytes sz)] [(0, bytesOfNat (Size.bytes sz) (s.x x).toNat)] id

/-- The new value of a PATOM. -/
def PatomOp.apply (op : PatomOp) (old x : Word) : Word :=
  match op with
  | .add => old + x
  | .and => old &&& x
  | .or => old ||| x
  | .xor => old ^^^ x
  | .smin => if x.slt old then x else old
  | .smax => if old.slt x then x else old
  | .umax => if old.ult x then x else old
  | .swap => x

def issuePatom (op : PatomOp) (d : XReg) (l : PLoc) (x : XReg) (s : State) : Issue :=
  s.pRead l .atomic 8 [(0, 8)] fun o r =>
    let old := BitVec.ofNat 64 (Mem.readNat (s.tile s.curTile).sp o 8)
    some ((r.pPut o (bytesOfNat 8 (PatomOp.apply op old (s.x x)).toNat)).flyX 6 d old)

/-! ### Barriers (R190 to R195) -/

/-- A reference form that leaves the tile with its segment: it counts in CP until its step is done. -/
def State.refStep (r s : State) (held : Bool) (op : BarOp) (w : Word) : Option State :=
  r.addCp.map fun r =>
    let r1 := if held then r else r.exposeCur
    r1.holdStep (if held then 1 else 0) (.barrierReferenceStep s.curTile s.curCtx s.tid op w)

def issuePatomR (op : PatomOp) (d rf x : XReg) (s : State) : Issue :=
  .ok fun r => r.refStep s false (.atom op d (s.x x)) (s.x rf)

def issueBarvR (g rf : XReg) (s : State) : Issue :=
  .ok fun r => r.refStep s true (.arrive ((s.x g).extractLsb' 0 4)) (s.x rf)

def issueBwaitR (d rf : XReg) (s : State) : Issue := .ok fun r => r.refStep s false (.wait d) (s.x rf)

/-- What BWAIT reads of a barrier (R195). -/
def barWord (b : BitVec 128) : Word := BitVec.ofNat 64 (barWcnt b * 2 ^ 52 + (b.extractLsb' 0 52).toNat)

/-- Is an arrival refused (R194)? -/
def arrivalBad (b : BitVec 128) (gen : Nat) : Bool := barSpent b || gen != barGen b || barPend b == 0

/-- What a reference step does at its barrier or word: one atomic step (R190 to R195, R198, R216); poison that it reads
there poisons the task (R323). The completion that
a local BARV caused, and the waiters that a BINIT abandoned, come from the hold. -/
def State.barStep (s : State) (t : TileNo) (c : CtxNo) (tid : Nat) (op : BarOp) (r : Word) : State :=
  match s.partOf t with
  | none => s
  | some p =>
    let fault := fun (detail opc : Nat) (s : State) => (s.arrive t c tid (defRec detail opc none r)).dropCp t c tid
    let bad := fun (u : TileNo) (o n : Nat) => (s.tile u).spBad [(o, n)]
    match op with
    | .abandon head cnt => (s.chain p head cnt).foldl (fun s i => s.enqueue p i 1) s
    | .lower inn out =>
      if inn ∨ out then s.lowerBar p r inn out
      else match s.barRef p r with
        | none => s
        | some (u, _, o) =>
          let s0 := s.readExposes u (if u = t then some c else none) o 16
          if barDone (s0.bar u o) then (s0.completeBar p u o).onTile u fun x => x.markNewer o 16 else s0
    | .arrive gen => match s.barRefBy p t c r with
      | none => fault 4 0x8B s
      | some (u, _, o) =>
        let s0 := s.readExposes u (if u = t then some c else none) o 16
        let b := s0.bar u o
        if bad u o 16 then s0.poisonTid t c tid p
        else if arrivalBad b gen.toNat then fault 3 0x8B s0
        else (((s0.remoteBar u o (barSet b 22 14 (barPend b - 1))).completeBar p u o).onTile u
          fun x => x.markNewer o 16).dropCp t c tid
    | .wait d => match s.barRefBy p t c r with
      | none => fault 4 0x8C s
      | some (u, _, o) =>
        let s0 := s.readExposes u (if u = t then some c else none) o 16
        if bad u o 16 then s0.poisonTid t c tid p
        else (s0.returnX t c tid d (barWord (s0.bar u o))).dropCp t c tid
    | .atom op d x => match s.barRefBy p t c r with
      | none => fault 4 0x89 s
      | some (u, _, o) =>
        let s0 := s.readExposes u (if u = t then some c else none) o 16
        let old := BitVec.ofNat 64 (Mem.readNat (s0.tile u).sp o 8)
        let s1 := s0.engineWriteSp u o (bytesOfNat 8 (PatomOp.apply op old x).toNat)
        if bad u o 8 then s0.poisonTid t c tid p else (s1.returnX t c tid d old).dropCp t c tid
    | .register cmd inn out => match s.barRefBy p t c r with
      | none => s.onTile t fun x => x.onCmd cmd fun k => { k with doom := some 4 }
      | some (u, _, o) =>
        let s0 := s.readExposes u (if u = t then some c else none) o 16
        match raiseBar (s0.bar u o) inn out with
        | none => s0.onTile t fun x => x.onCmd cmd fun k => { k with doom := some 9 }
        | some b1 => (s0.remoteBar u o b1).onTile t fun x =>
            x.onCmd cmd fun k => { k with bar := some r, inn := inn, out := out }

/-- When a reference step that arrives now is applied (R192, R291), and the state in which its clock is kept for it. A
step on no barrier of the partition, and one out of the hold, does not wait. -/
def State.refTurn (s : State) (t : TileNo) (c : CtxNo) (op : BarOp) (r : Word) : Nat × State :=
  match op, (s.partOf t).bind fun p => s.barRefBy p t c r with
  | .abandon _ _, _ => (s.now, s)
  | .lower _ _, _ => (s.now, s)
  | _, none => (s.now, s)
  | .atom _ _ _, some (u, _, _) => if s.asleep u then ((s.wake u).wakeTick u, s.wake u) else (s.spTick u, s)
  | _, some (u, _, o) => s.barTurn u o (orderKey t c)

/-- BARRIER_REFERENCE_STEP. -/
def execBarrierReferenceStep (t : TileNo) (c : CtxNo) (tid : Nat) (op : BarOp) (r : Word) (s : State) : Out :=
  let q := s.refTurn t c op r
  if s.now < q.1 then .next (q.2.postpone q.1 (orderKey t c) (.barrierReferenceStep t c tid op r))
  else .next (q.2.barStep t c tid op r)

/-- Is a step one of a context's own operations on the barrier at `o` of its tile, by reference? -/
def State.refersTo (s : State) (t : TileNo) (o : Nat) (ev : Instr) : Bool :=
  match ev with
  | .barrierReferenceStep _ _ _ (.lower _ _) _ => false
  | .barrierReferenceStep _ _ _ (.abandon _ _) _ => false
  | .barrierReferenceStep .. => s.hubTarget ev == some (100 + t.val, o)
  | _ => false

/-- The context's earlier operations on a barrier of its tile take effect before one that acts at issue (R192): held
ones expose its segment, and those on their way are applied now (log 81). -/
def State.settleRefs (s : State) (o : Nat) : State :=
  match s.cur with
  | .gondola => s
  | .hw t c =>
    let s1 := if (s.ctxAt t c).hold.any fun h => (match h.kind with
        | .step ev => s.refersTo t o ev
        | _ => false) then s.expose t c else s
    (s1.agenda.filter fun d => decide (d.key = orderKey t c) && s1.refersTo t o d.ev).foldl (fun s d => match d.ev with
      | .barrierReferenceStep _ _ tid op r => { s with agenda := s.agenda.erase d }.barStep t c tid op r
      | _ => s) s1

/-- An operation of the acting context on a barrier of its tile has this clock (R192). -/
def State.tookTurn (s : State) (o : Nat) : State :=
  match s.cur with
  | .gondola => s
  | .hw t c => s.onTile t fun x => { x with barAt := Map.set x.barAt (o * 1024 + orderKey t c) x.cycle }

/-- BINIT's status in its register: code and count. -/
def initStatus (code count : Nat) : Word := BitVec.ofNat 64 (count * 2 ^ 16 + code)

/-- The code of a BINIT (R193): BAD_INIT first, then TRANSFERS, then WAITERS. -/
def initCode (b : BitVec 128) (x : Word) (force : Bool) : Nat :=
  if x.extractLsb' 0 14 = 0 ∨ x.extractLsb' 15 49 ≠ 0 then 2
  else if barIn b ≠ 0 ∨ barOut b ≠ 0 then 3
  else if barWcnt b ≠ 0 ∧ !force then 1
  else 0

/-- An initialised barrier. -/
def initBar (b : BitVec 128) (x : Word) : BitVec 128 :=
  let e := (x.extractLsb' 0 14).toNat
  BitVec.ofNat 128 (e * 2 ^ 22 + e * 2 ^ 8 + (x.getLsbD 14).toNat * 2 ^ 4 + (barGen b + 1) % 16)

/-- BINIT initialises the barrier at its issue. The waiters that FORCE abandons are enqueued when the segment commits, as
the completion that a local BARV causes is (R300, R318; DEDUCED, log 81). It changes no entry of the bay table, which
R25 names it as a writer of and R193 gives it no effect on (DESIGN CHOICE, log 82). -/
def issueBinit (x : XReg) (force : Bool) (l : PLoc) (s : State) : Issue :=
  s.pRead l .barrier 16 [(0, 16)] fun o r =>
    let b := (s.settleRefs o).bar s.curTile o
    let r0 := r.settleRefs o
    let code := initCode b (s.x x) force
    if code ≠ 0 then some (r0.flyX 6 x (initStatus code (if code = 1 then barWcnt b else 0)))
    else
      let r1 := (r0.pPut o (bytesOfNat 16 (initBar b (s.x x)).toNat)).tookTurn o
      let r2 := if barWcnt b = 0 then r1
        else r1.holdStep 1 (.barrierReferenceStep s.curTile s.curCtx s.tid (.abandon (barWhead b) (barWcnt b)) 0)
      some (r2.flyX 6 x (initStatus 0 (barWcnt b)))

/-- Local BARV acts at issue; the completion it causes is held until its segment commits (R318). -/
def issueBarv (g : XReg) (l : PLoc) (s : State) : Issue :=
  match s.bayAccess l.bay .barrier (s.pea l) 16 [(s.pea l, 16)] with
  | .error e => e
  | .ok base =>
    let o := base + s.pea l
    let b := (s.settleRefs o).bar s.curTile o
    let b1 := barSet b 22 14 (barPend b - 1)
    let ref := BitVec.ofNat 64 (s.curTile.val * 2 ^ 29 + l.bay.val * 2 ^ 23 + (o - base))
    if (s.tile s.curTile).spBad [(o, 16)] then
      .done fun r => (r.readRanges [(o, 16)]).poisonTask s.curTile s.curCtx
    else .check (!arrivalBad b ((s.x g).extractLsb' 0 4).toNat) .barrierGen
      (.done fun r =>
        let r1 := ((((r.settleRefs o).readRanges [(o, 16)]).pPut o (bytesOfNat 16 b1.toNat)).tookTurn o).stepA s l.ps l.ai
        if barDone b1 then r1.holdStep 1 (.barrierReferenceStep s.curTile s.curCtx s.tid (.lower false false) ref)
        else r1)

def issueBwait (d : XReg) (l : PLoc) (s : State) : Issue :=
  s.pRead l .barrierRead 16 [(0, 16)] fun o r =>
    some ((r.settleRefs o).flyX 6 d (barWord ((s.settleRefs o).bar s.curTile o)))

/-! ### The bay table (R199 to R201) -/

/-- The entry a BAYCFG is to write. -/
def State.bayImage (s : State) (e : BayEntry) : Bay :=
  match e with
  | .imm own keep sync shadow size base =>
    { Bay.start with own := own, keep := keep, sync := sync, shadow := shadow, size := size, base := base }
  | .reg x =>
    let w := s.x x
    { Bay.start with
      own := w.extractLsb' 32 4, keep := w.getLsbD 30, sync := w.getLsbD 29, shadow := w.getLsbD 28,
      size := w.extractLsb' 12 12, base := w.extractLsb' 0 12 }

/-- Do the ranges of two bays overlap? -/
def Bay.overlaps (a b : Bay) : Bool :=
  a.configured && b.configured && decide (a.base.toNat < b.base.toNat + b.size.toNat ∧ b.base.toNat < a.base.toNat + a.size.toNat)

/-- Has a barrier in a SYNC bay waiters: is a cell of WCNT's bits listed? -/
def Tile.bayWaiters (x : Tile) (b : Bay) : Bool :=
  let lo := b.base.toNat * 4096
  b.sync && x.sp.any fun c => decide (lo ≤ c.1 ∧ c.1 < lo + b.size.toNat * 4096)
    && ((c.1 % 16 == 12) || (c.1 % 16 == 11 && decide (16 ≤ c.2.toNat)))

/-- The 4 KiB units of a tile's KEEP bays other than `n`. -/
def Tile.keepUnits (x : Tile) (n : BayNo) : Nat :=
  ((List.finRange 64).map fun m => if m = n ∨ !(x.bay m).keep then 0 else (x.bay m).size.toNat).sum

/-- The status of a BAYCFG: the lowest code whose condition holds; `busy` tells of an engine command outstanding on
the bay. -/
def Tile.cfgCode (x : Tile) (n : BayNo) (e : Bay) (busy : Bool) : Nat :=
  let b := x.bay n
  if (b.configured && !b.sync && b.st != .empty) || busy then 1
  else if (List.finRange 64).any fun m => m != n && e.overlaps (x.bay m) then 2
  else if 1328 < e.base.toNat + e.size.toNat then 3
  else if e.keep && decide (80 < x.keepUnits n + e.size.toNat) then 4
  else if e.shadow && e.size.getLsbD 0 then 5
  else if x.bayWaiters b then 6
  else 0

/-- The bytes a SYNC bay zeroes, logged for rollback: more than the log holds exposes the segment. -/
def State.logBay (s : State) (e : Bay) : State :=
  if 16 < e.size.toNat then s.exposeCur
  else s.logScratch s.curTile s.curCtx (e.base.toNat * 4096) (e.size.toNat * 4096)

def issueBaycfg (d : XReg) (n : BayNo) (e : BayEntry) (s : State) : Issue :=
  if s.cx.regs.priv = .U then .trap .privilegeViolation
  else .done fun r =>
    let b := s.bayImage e
    let code := (s.tile s.curTile).cfgCode n b (s.bayBusy s.curTile n)
    if code ≠ 0 then r.flyX 1 d (BitVec.ofNat 64 code)
    else
      let live := b.sync && b.configured
      let r1 := r.changeBay n fun _ => { b with st := if live then .ready else .empty }
      let r2 := if live then (r1.logBay b).onTile s.curTile fun x => x.zeroBay b else r1
      r2.flyX 1 d 0

def issueBayst (d : XReg) (n : BayNo) (s : State) : Issue :=
  .check (s.cx.regs.priv == .S || (s.bay n).admits s.curCtx) .bayAccess (.done fun r => r.flyX 1 d (s.bay n).word)

/-- The bytes of a bay become meaningless: free values, with the old ones in the log for a rollback (R184, R201). -/
def State.staleBay (s : State) (b : Bay) : State :=
  let o := b.base.toNat * 4096
  let n := b.size.toNat * 4096
  let s1 := (unitsOf o n).foldl (fun s u =>
    s.logUndo s.curTile s.curCtx (.stale (u * 64) (Mem.readBytes (s.tile s.curTile).sp (u * 64) 64) 0)) s
  (s1.onTile s.curTile fun x => { x with sp := Mem.writeBytes x.sp o (bytesOfNat n (s1.free (8 * n)).toNat) }).drew

def issueBayrel (n : BayNo) (s : State) : Issue :=
  let b := s.bay n
  if !b.admits s.curCtx then .trap .bayAccess
  else if b.sync then .trap .illegalOperand
  else if s.bayBusy s.curTile n || !(b.st == .ready || b.st == .empty) then .block
  else .done fun r => if b.st = .ready then (r.changeBay n fun b => { b with st := .empty }).staleBay b else r

/-! ### Meanings -/

def execPld (d : VReg) (l : PLoc) (s : State) : Out := s.conclude (.pld d l) (issuePld d l s)
def execPst (v : VUse) (l : PLoc) (s : State) : Out := s.conclude (.pst v l) (issuePst v l s)
def execPldb (d : VReg) (l : PLoc) (row nr : BitVec 4) (s : State) : Out :=
  s.conclude (.pldb d l row nr) (issuePldb d l row nr s)
def execPstb (v : VUse) (l : PLoc) (row nr : BitVec 4) (s : State) : Out :=
  s.conclude (.pstb v l row nr) (issuePstb v l row nr s)
def execPlds (d : VReg) (l : PLoc) (str : BitVec 8) (s : State) : Out :=
  s.conclude (.plds d l str) (issuePlds d l str s)
def execPsts (v : VUse) (l : PLoc) (str : BitVec 8) (s : State) : Out :=
  s.conclude (.psts v l str) (issuePsts v l str s)
def execPldx (d : VReg) (l : PLoc) (i : VUse) (s : State) : Out := s.conclude (.pldx d l i) (issuePldx d l i s)
def execPstx (v : VUse) (l : PLoc) (i : VUse) (s : State) : Out := s.conclude (.pstx v l i) (issuePstx v l i s)
def execPstm (v : VUse) (l : PLoc) (s : State) : Out := s.conclude (.pstm v l) (issuePstm v l s)
def execPatom (op : PatomOp) (d : XReg) (l : PLoc) (x : XReg) (s : State) : Out :=
  s.conclude (.patom op d l x) (issuePatom op d l x s)
def execPatomR (op : PatomOp) (d rf x : XReg) (s : State) : Out :=
  s.conclude (.patomR op d rf x) (issuePatomR op d rf x s)
def execBinit (x : XReg) (force : Bool) (l : PLoc) (s : State) : Out :=
  s.conclude (.binit x force l) (issueBinit x force l s)
def execBarv (g : XReg) (l : PLoc) (s : State) : Out := s.conclude (.barv g l) (issueBarv g l s)
def execBarvR (g rf : XReg) (s : State) : Out := s.conclude (.barvR g rf) (issueBarvR g rf s)
def execBwait (d : XReg) (l : PLoc) (s : State) : Out := s.conclude (.bwait d l) (issueBwait d l s)
def execBwaitR (d rf : XReg) (s : State) : Out := s.conclude (.bwaitR d rf) (issueBwaitR d rf s)
def execPstsc (sz : Size) (x : XReg) (l : PLoc) (s : State) : Out :=
  s.conclude (.pstsc sz x l) (issuePstsc sz x l s)
def execPldsc (sx : Bool) (sz : Size) (d : XReg) (l : PLoc) (s : State) : Out :=
  s.conclude (.pldsc sx sz d l) (issuePldsc sx sz d l s)
def execBaycfg (d : XReg) (n : BayNo) (e : BayEntry) (s : State) : Out :=
  s.conclude (.baycfg d n e) (issueBaycfg d n e s)
def execBayst (d : XReg) (n : BayNo) (s : State) : Out := s.conclude (.bayst d n) (issueBayst d n s)
def execBayrel (n : BayNo) (s : State) : Out := s.conclude (.bayrel n) (issueBayrel n s)

end Sys2Proof.Machine
end

