-- ==== Sys2Proof/Machine/Gslot.lean ====
section
/-! DEFINITION. The G slot (R202 to R210, R285 to R290): issuing an access to device virtual memory, the
order in which accesses take effect, completion, and the fault of an access (R307, R308). -/

namespace Sys2Proof.Machine

/-! ### Issue (R203, R204) -/

/-- The formed address of a data form, and of a synchronising form. -/
def State.gea (s : State) (g : GAddr) : Word := s.a g.ai + g.disp.signExtend 64
def State.sea (s : State) (e : SAddr) : Word := s.x e.xa + e.disp.signExtend 64

/-- The lines of a range stand in the tile's L1, so that the access hits. -/
def State.inL1 (s : State) (a n : Nat) : Bool :=
  (piecesOf a n).all fun q => (s.line? s.curTile (lineKey s.curPart q.1)).isSome

/-- GLDV and GSTV accesses not complete; a third stalls (R306). -/
def Ctx.vecOut (x : Ctx) : Nat :=
  ((x.gaccs ++ ((x.frame.map (·.pend)).getD [])).filter fun g => isVecAccess g.ins.ins && g.stat != .done).length

/-- What an access carries at issue. -/
structure GArgs where
  ea : Word
  data : Word := 0
  vec : VImage := 0
  arg : Word := 0
  pv : Fin 56 := 0

/-- The clocks of an access that finds no line in L1: at least a cluster cache hit's 48 at L7, 40 ns (R335). -/
def State.missClocks (s : State) : Nat := max 12 (nanos 40 / s.tilePeriod s.curTile)

/-- Is an access answered by L1 alone? `none` is an access that is no load of data. -/
def State.l1Hit (s : State) (i : Instr) (a : Nat) : Option Bool :=
  match i with
  | .gld _ sz _ _ => some (s.inL1 a (Size.bytes sz))
  | .gldc _ sz _ _ => some (s.inL1 a (Size.bytes sz))
  | .gldv _ _ => some (s.inL1 a 4096)
  | _ => none

/-- The bytes an access reaches. -/
def gBytes : Instr → Nat
  | .gld _ sz _ _ => Size.bytes sz
  | .gldc _ sz _ _ => Size.bytes sz
  | .gst sz _ _ => Size.bytes sz
  | .gstc sz _ _ => Size.bytes sz
  | .gldv _ _ => 4096
  | .gstv _ _ => 4096
  | _ => 8

/-- The span of the free number of clocks of an access: one with a byte on a peer page is over within 10 µs, which R206
bounds a load by that fails there (log 16). -/
def State.gSpan (s : State) (i : Instr) (a : Nat) : Nat :=
  if (piecesOf a (gBytes i)).any fun q => match s.translate s.curPart q.1 (isGStore i) with
    | .ok (.peer _ _) => true
    | _ => false then max 1 (nanos 10000 / s.tilePeriod s.curTile - s.missClocks)
  else 65536

/-- The clocks an access takes: 12 where L1 answers, else at least what R335 gives, and a free number more; a fault may
return earlier (R404). -/
def State.gClocks (s : State) (i : Instr) (a free : Nat) : Nat :=
  match s.l1Hit i a with
  | some true => 12
  | some false => (match s.translate s.curPart a false with
    | .ok _ => s.missClocks
    | .error _ => 12) + free % s.gSpan i a
  | none => (if countsLd i then 12 else 1) + free % s.gSpan i a

/-- An access joins the context's accesses; a store's bytes join the hold. -/
def State.startG (r s : State) (i : Instr) (a : GArgs) (bytes : List Byte) : Option State :=
  let due := s.clock + s.gClocks i a.ea.toNat (Config.delay r.freeCtr)
  let g : GAcc := ⟨r.nextId, r.flagged i, a.ea, a.data, a.vec, a.arg, .outstanding, 0, false, a.pv, due, false⟩
  (if countsLd i then r.addLd else r.addSt).map fun r =>
    let r1 := (r.onCx fun x => { x with gaccs := x.gaccs ++ [g] }).fresh.drew
    let r2 := match i with
      | .gprobe _ _ => r1
      | _ => r1.setNres
    if isGStore i then
      r2.holdEffect s.curTile s.curCtx (if bytes.length ≤ 256 then 1 else 16) (.store g.id a.ea.toNat bytes false)
    else r2

/-- The issue checks of a G address (R12, R203). -/
def gCheck (ea : Word) (align : Nat) (k : Issue) : Issue :=
  .check (decide (ea.toNat < 2 ^ 52)) .addressRange (.check (ea.toNat % align == 0) .misaligned k)

/-- A data form. -/
def State.dataForm (s : State) (i : Instr) (g : GAddr) (align : Nat) (a : GArgs) (bytes : List Byte) : Issue :=
  gCheck (s.gea g) align (.ok fun r => (r.startG s i { a with ea := s.gea g } bytes).map fun r => r.stepA s g.ps g.ai)

/-- A synchronising form: its segment is exposed (R320). -/
def State.syncForm (s : State) (i : Instr) (e : SAddr) (data arg : Word) : Issue :=
  gCheck (s.sea e) 8 (.ok fun r => r.exposeCur.startG s i { ea := s.sea e, data := data, arg := arg } [])

def issueGld (sx : Bool) (sz : Size) (d : XReg) (g : GAddr) (s : State) : Issue :=
  s.dataForm (.gld sx sz d g) g (Size.bytes sz) { ea := 0 } []

def issueGldc (sx : Bool) (sz : Size) (d : XReg) (g : GAddr) (s : State) : Issue :=
  s.dataForm (.gldc sx sz d g) g (Size.bytes sz) { ea := 0 } []

def issueGst (sz : Size) (x : XReg) (g : GAddr) (s : State) : Issue :=
  s.dataForm (.gst sz x g) g (Size.bytes sz) { ea := 0, data := s.x x } (bytesOfNat (Size.bytes sz) (s.x x).toNat)

def issueGstc (sz : Size) (x : XReg) (g : GAddr) (s : State) : Issue :=
  s.dataForm (.gstc sz x g) g (Size.bytes sz) { ea := 0, data := s.x x } (bytesOfNat (Size.bytes sz) (s.x x).toNat)

def issueGldv (d : VReg) (g : GAddr) (s : State) : Issue :=
  if 2 ≤ s.cx.vecOut then gCheck (s.gea g) 256 .stall
  else gCheck (s.gea g) 256 (.ok fun r => match r.claimV s d with
    | none => none
    | some (r1, pv) => (r1.startG s (.gldv d g) { ea := s.gea g, pv := pv } []).map fun r => r.stepA s g.ps g.ai)

def issueGstv (v : VUse) (g : GAddr) (s : State) : Issue :=
  if 2 ≤ s.cx.vecOut then gCheck (s.gea g) 256 .stall
  else gCheck (s.gea g) 256 (.ok fun r =>
    (r.startG s (.gstv v g) { ea := s.gea g, vec := s.v v.reg } (imgBytes (s.v v.reg) 0 4096)).map fun r =>
      (r.used v none 1).stepA s g.ps g.ai)

def issueGatom (op : GatomOp) (sc : Scope) (d x : XReg) (e : SAddr) (s : State) : Issue :=
  s.syncForm (.gatom op sc d x e) e (s.x x) 0

def issueGcas (sc : Scope) (d n : XReg) (e : SAddr) (s : State) : Issue :=
  s.syncForm (.gcas sc d n e) e (s.x n) (s.x d)

def issueAcq (sc : Scope) (d : XReg) (e : SAddr) (s : State) : Issue := s.syncForm (.acq sc d e) e 0 0

def issueRel (op : RelOp) (sc : Scope) (b : XReg) (e : SAddr) (s : State) : Issue :=
  s.syncForm (.rel op sc b e) e (s.x b) 0

def issueAcqs (sc : Scope) (d b : XReg) (e : SAddr) (s : State) : Issue := s.syncForm (.acqs sc d b e) e 0 (s.x b)

def issueBind (d b c : XReg) (e : SAddr) (s : State) : Issue := s.syncForm (.bind d b c e) e (s.x b) (s.x c)

def issueUnbind (d : XReg) (e : SAddr) (s : State) : Issue := s.syncForm (.unbind d e) e 0 0

def issueGfence (sc : Scope) (s : State) : Issue :=
  .ok fun r => r.exposeCur.startG s (.gfence sc) { ea := 0 } []

def issueGinv (n : XReg) (g : GAddr) (s : State) : Issue :=
  gCheck (s.gea g) 1 (.ok fun r => (r.exposeCur.startG s (.ginv n g) { ea := s.gea g, data := s.x n } []).map
    fun r => r.stepA s g.ps g.ai)

def issueGwb (n : XReg) (g : GAddr) (s : State) : Issue :=
  gCheck (s.gea g) 1 (.ok fun r => (r.exposeCur.startG s (.gwb n g) { ea := s.gea g, data := s.x n } []).map
    fun r => r.stepA s g.ps g.ai)

/-- GPROBE neither faults nor checks its address (R12, R207). -/
def issueGprobe (d : XReg) (g : GAddr) (s : State) : Issue :=
  .ok fun r => (r.startG s (.gprobe d g) { ea := s.gea g } []).map fun r => r.stepA s g.ps g.ai

/-- A line brought toward a level, where it translates and is not held already (R207). -/
def State.prefetch (s : State) (lvl : PrefLevel) (p : PartNo) (va : Nat) : State :=
  match s.translate p va false with
  | .error _ => s
  | .ok h =>
    if s.direct h ∨ s.lost h then s
    else match lvl with
    | .sys => s
    | .clu => (s.fetchLine s.curTile (lineKey p va) h).2
    | .l1 => if (s.line? s.curTile (lineKey p va)).isSome then s else (s.fillLine s.curTile (lineKey p va) h).2

/-- GPREF. DESIGN CHOICE (log 85): with an address that has bits above 51 it brings nothing, and its post-step is still
applied, since R12 and R207 speak of the access alone. -/
def issueGpref (lvl : PrefLevel) (g : GAddr) (s : State) : Issue :=
  .done fun r =>
    let a := (s.gea g).toNat
    let r1 := if a < 2 ^ 52 then
        (piecesOf (a / 4096 * 4096) 4096).foldl (fun r q => r.prefetch lvl s.curPart q.1) r
      else r
    r1.stepA s g.ps g.ai

/-! ### Effects (R205 to R210) -/

/-- How an access ends: with a fault, by consuming poison, lost at a peer, or with a value. -/
inductive GEnd
  | fault (s : State) (code : Cause)
  | poison
  | lost
  | value (s : State) (data : Word) (vec : VImage)

/-- What a read of ranges gives. -/
inductive Got
  | bad (c : Cause)
  | lost
  | poison
  | bytes (bs : List Byte) (s : State)

/-- `n` bytes of one line as a load reads them, and whether they are poisoned: none where the line is at a peer out of
reach and not in L1 (R206). -/
def State.readLine (s : State) (t : TileNo) (p : PartNo) (va n : Nat) (h : Home) : Option ((List Byte × Bool) × State) :=
  if s.lost h then
    (s.line? t (lineKey p va)).map fun l => ((((lineBytes l.data).drop (va % 256)).take n, badIn l.bad (va % 256) n), s)
  else some (s.loadLine t p va n h)

def State.gRead (s : State) (t : TileNo) (p : PartNo) : List (Nat × Nat) → Got
  | [] => .bytes [] s
  | q :: qs => match s.translate p q.1 false with
    | .error e => .bad e
    | .ok h =>
      match s.readLine t p q.1 q.2 h with
      | none => .lost
      | some ((bs, bad), s1) =>
        if bad then .poison
        else match s1.gRead t p qs with
        | .bytes cs s2 => .bytes (bs ++ cs) s2
        | e => e

/-- Bytes read at `a` with others laid over them where the two ranges meet. -/
def overBytes (a : Nat) (bs : List Byte) (u : Nat × List Byte) : List Byte :=
  if meets (u.1, u.2.length) (a, bs.length) then
    (List.range bs.length).map fun i =>
      if u.1 ≤ a + i ∧ a + i < u.1 + u.2.length then u.2.getD (a + i - u.1) 0 else bs.getD i 0
  else bs

/-- Bytes read at `a`, with those that the context's own held stores put there (R318). -/
def mergeHeld (hold : List Hold) (a : Nat) (bs : List Byte) : List Byte :=
  hold.foldl (fun bs h => match h.kind with
    | .store _ ea hb true => overBytes a bs (ea, hb)
    | _ => bs) bs

/-- The bytes at `a` as they were before later writes: the earliest record of a byte counts (R293). -/
def readUnder (under : List (Nat × List Byte)) (a : Nat) (bs : List Byte) : List Byte :=
  under.foldr (fun u bs => overBytes a bs u) bs

/-- The held stores of a context that were issued before an identity. -/
def Ctx.holdBefore (x : Ctx) (id : Nat) : List Hold :=
  x.hold.filter fun h => match h.kind with
    | .store i _ _ _ => decide (i < id)
    | _ => false

/-- A load of `n` bytes. -/
def State.gLoad (s : State) (t : TileNo) (c : CtxNo) (p : PartNo) (a n : Nat) (k : List Byte → Word × VImage) : GEnd :=
  match s.gRead t p (piecesOf a n) with
  | .bad e => .fault s e
  | .lost => .lost
  | .poison => .poison
  | .bytes bs s1 =>
    let v := k (mergeHeld (s.ctxAt t c).hold a bs)
    .value s1 v.1 v.2

/-- A data store: it passes translation, or fails. -/
def State.gStore (s : State) (p : PartNo) (a n : Nat) : GEnd :=
  let rs := (piecesOf a n).map fun q => s.translate p q.1 true
  match rs.find? fun r => match r with
    | .error _ => true
    | .ok _ => false with
  | some (.error e) => .fault s e
  | _ =>
    if rs.any fun r => match r with
      | .ok h => s.lost h
      | .error _ => false then .lost
    else .value s 0 0

/-- The object of a sync operation: a translation failure is LOAD_FAULT whatever it writes (R302), and a
peer out of reach is Remote Access Error (log 26). -/
def State.syncObj (s : State) (t : TileNo) (p : PartNo) (a : Nat) (write : Bool) (k : Home → State → GEnd) : GEnd :=
  match s.translate p a write with
  | .error .storeFault => .fault s .loadFault
  | .error e => .fault s e
  | .ok h =>
    if s.lost h then .fault s .remoteAccess
    else if s.homePoison h 8 then .poison
    else k h (s.makeSync p a h (some t))

/-- The new value of a GATOM. -/
def GatomOp.apply (op : GatomOp) (old x : Word) : Word :=
  match op with
  | .add => old + x
  | .and => old &&& x
  | .or => old ||| x
  | .xor => old ^^^ x
  | .smin => if x.slt old then x else old
  | .smax => if old.slt x then x else old
  | .umin => if x.ult old then x else old
  | .umax => if old.ult x then x else old
  | .swap => x

/-- The ranges bound to an object of a partition (R209). -/
def State.bound (s : State) (p : PartNo) (h : Home) : Ranges :=
  (s.part p).binds.filterMap fun e => if e.2.obj = h then some (e.2.lo, e.2.len) else none

/-- An acquire of an object, which raises Release Incomplete where a release of it failed (R210). -/
def State.acquire (s : State) (t : TileNo) (c : CtxNo) (p : PartNo) (sc : Scope) (h : Home) (v : Word) : GEnd :=
  if s.incomplete.contains h then .fault { s with incomplete := s.incomplete.filter (· != h) } .releaseIncomplete
  else
    let rs := s.bound p h
    .value ((s.writeBack t (some c) rs sc).refresh t rs sc) v 0

/-- Is a unit poisoned of which bytes `m` of a line are written back? -/
def carriesBad (m : BitVec 256) (bad : BitVec 4) : Bool :=
  (List.range 4).any fun i => unitMask m i != 0 && bad.getLsbD i

/-- A line of L1 of which bytes are written back as far as `reach`, and are refused there or carry poison: its home is out
of reach, or a unit there is poisoned that the bytes do not fill (R210, R282, R290). -/
def State.refused (s : State) (t : TileNo) (c : CtxNo) (rs : Ranges) (reach key : Nat) : Bool :=
  match s.line? t key with
  | none => false
  | some l =>
    let m := s.dirtyIn t (some c) rs key
    match l.home with
    | .dram _ => decide (1 ≤ reach) && (carriesBad m l.bad || (decide (2 ≤ reach) && s.homeRefuses l.home m))
    | _ => decide (3 ≤ reach) && (carriesBad m l.bad || s.homeRefuses l.home m)

/-- The same of a line in the cluster cache, which a write-back takes on to its home. -/
def State.refusedC (s : State) (k : ClusterNo) (reach key : Nat) : Bool :=
  match s.cline? k key with
  | none => false
  | some l => decide (2 ≤ reach) && (carriesBad l.dirty l.bad || s.homeRefuses l.home l.dirty)

/-- REL's write-back, and the mark of a release that is incomplete. -/
def State.release (s : State) (t : TileNo) (c : CtxNo) (p : PartNo) (sc : Scope) (h : Home) : State :=
  let rs := s.bound p h
  let bad := ((s.lineKeys t p rs).any fun key => s.refused t c rs (scopeReach sc) key)
    || (s.clineKeys (clusterOf t) p rs).any fun key => s.refusedC (clusterOf t) (scopeReach sc) key
  let s1 := s.writeBack t (some c) rs sc
  if bad ∧ !s1.incomplete.contains h then { s1 with incomplete := s1.incomplete ++ [h] } else s1

/-- Is a range to bind malformed (R209)? -/
def badRange (lo len : Word) : Bool :=
  lo.toNat % 256 != 0 || len.toNat % 256 != 0 || len == 0 || decide (2 ^ 40 < len.toNat)
    || decide (2 ^ 52 < lo.toNat + len.toNat)

/-- BIND's table entry and value. DESIGN CHOICE (log 76): of the free entries it takes the one of the lowest index,
which R209 leaves open. -/
def State.bindRange (s : State) (p : PartNo) (h : Home) (lo len : Word) : State × Word :=
  if badRange lo len then (s, 0xFFFFFFFFFFFFFFF3)
  else if (s.part p).binds.any fun e => meets (e.2.lo, e.2.len) (lo.toNat, len.toNat) then (s, 0xFFFFFFFFFFFFFFF2)
  else match Map.freeFrom (s.part p).binds 0 1024 with
    | none => (s, 0xFFFFFFFFFFFFFFF1)
    | some i => (s.onPart p fun x => { x with binds := Map.set x.binds i ⟨h, lo.toNat, len.toNat⟩ }, BitVec.ofNat 64 i)

/-- UNBIND: the context's dirty bytes in the object's ranges go out, and the ranges are gone. -/
def State.unbindRange (s : State) (t : TileNo) (c : CtxNo) (p : PartNo) (h : Home) : State × Word :=
  let rs := s.bound p h
  let s1 := s.writeBack t (some c) rs .part
  (s1.onPart p fun x => { x with binds := x.binds.filter fun e => e.2.obj != h }, BitVec.ofNat 64 rs.length)

/-- GPROBE's word (R207). -/
def State.probe (s : State) (p : PartNo) (a : Nat) : Word :=
  match s.leaf p a with
  | none => 0
  | some l => BitVec.ofNat 64 (1 + l.writable.toNat * 2 + l.hb.toNat * 4 + l.isPeer.toNat * 8 + l.shared.toNat * 16
      + l.big.toNat * 32)

/-- An image from 4,096 bytes. -/
def imgFrom (bs : List Byte) : VImage := BitVec.ofNat 32768 (natOfBytes bs)

/-- The effect of an access. -/
def State.gEffect (s : State) (t : TileNo) (c : CtxNo) (p : PartNo) (g : GAcc) : GEnd :=
  let a := g.ea.toNat
  match g.ins.ins with
  | .gld sx sz _ _ => s.gLoad t c p a (Size.bytes sz) fun bs => (extended sx sz bs, 0)
  | .gldc sx sz _ _ => s.gLoad t c p a (Size.bytes sz) fun bs => (extended sx sz bs, 0)
  | .gldv _ _ => s.gLoad t c p a 4096 fun bs => (0, imgFrom bs)
  | .gst sz _ _ => s.gStore p a (Size.bytes sz)
  | .gstc sz _ _ => s.gStore p a (Size.bytes sz)
  | .gstv _ _ => s.gStore p a 4096
  | .gatom op _ _ _ _ => s.syncObj t p a true fun h s =>
      .value (s.writeQ h (GatomOp.apply op (s.readQ h) g.data)) (s.readQ h) 0
  | .gcas _ _ _ _ => s.syncObj t p a true fun h s =>
      let old := s.readQ h
      .value (if old = g.arg then s.writeQ h g.data else s) old 0
  | .acq sc _ _ => s.syncObj t p a false fun h s => s.acquire t c p sc h (s.readQ h)
  | .acqs sc _ _ _ => s.syncObj t p a false fun h s =>
      let v := s.readQ h
      if g.arg.toNat ≤ v.toNat then s.acquire t c p sc h v else .value s v 0
  | .rel op sc _ _ => s.syncObj t p a (op != .none) fun h s =>
      let s1 := s.release t c p sc h
      match op with
      | .none => .value s1 0 0
      | .st => .value (s1.writeQ h g.data) 0 0
      | .add => .value (s1.writeQ h (s1.readQ h + g.data)) 0 0
  | .bind _ _ _ _ => s.syncObj t p a false fun h s =>
      let r := s.bindRange p h g.data g.arg
      .value r.1 r.2 0
  | .unbind _ _ => s.syncObj t p a false fun h s =>
      let r := s.unbindRange t c p h
      .value r.1 r.2 0
  | .gfence sc => .value ((s.writeBack t (some c) wholeSpace sc).refresh t wholeSpace sc) 0 0
  | .gwb _ _ =>
    if g.range.2 = 0 then .value s 0 0 else .value (s.writeBack t (some c) [g.range] .grp) 0 0
  | .ginv _ _ =>
    if g.range.2 = 0 then .value s 0 0
    else .value ((s.writeBack t (some c) [g.range] .grp).refresh t [g.range] .grp) 0 0
  | .gprobe _ _ => .value s (if a < 2 ^ 52 then s.probe p a else 0) 0
  | _ => .value s 0 0

/-! ### Where an access stands (R307) -/

/-- The records of a live frame. -/
def Ctx.pend (x : Ctx) : List GAcc := (x.frame.map (·.pend)).getD []

/-- An access not yet resolved, of the frame or of the context. -/
def Ctx.acc? (x : Ctx) (id : Nat) : Option GAcc := (x.pend ++ x.gaccs).find? fun g => g.id == id

def onId (id : Nat) (f : GAcc → GAcc) (l : List GAcc) : List GAcc := l.map fun g => if g.id = id then f g else g

/-- An access changed, where it stands. -/
def Ctx.onAcc (x : Ctx) (id : Nat) (f : GAcc → GAcc) : Ctx :=
  { x with
    gaccs := onId id f x.gaccs,
    frame := x.frame.map fun k => { k with pend := onId id f k.pend } }

/-- Is an access a record of the live frame? -/
def Ctx.inFrame (x : Ctx) (id : Nat) : Bool := x.pend.any fun g => g.id == id

/-- Must an access wait for an earlier one? -/
def Ctx.mustWait (x : Ctx) (g : GAcc) : Bool :=
  ((x.pend ++ x.gaccs).takeWhile fun e => e.id != g.id).any fun e => e.stat == .outstanding && e.before g

/-- Is a signal that a context issued before an access still in its hold? -/
def Ctx.signalHeld (x : Ctx) (g : GAcc) : Bool :=
  isSyncOp g.ins.ins && x.hold.any fun h => decide (h.after ≤ g.id) && match h.kind with
    | .step ev => isSyncStep ev
    | _ => false

/-- Has a signal that a context issued before a sync operation not reached its object yet? The two keep their order
(R284). -/
def State.signalBefore (s : State) (t : TileNo) (c : CtxNo) (g : GAcc) : Bool :=
  (s.ctxAt t c).signalHeld g
    || isSyncOp g.ins.ins && s.agenda.any fun d => decide (d.key = orderKey t c) && isSyncStep d.ev

/-- Is an access ordered after one that faulted, or that became REPLAY, or after a signal that waits for such a
store? -/
def Ctx.mustReplay (x : Ctx) (g : GAcc) : Bool :=
  let l := if x.inFrame g.id then x.pend else x.gaccs
  (l.takeWhile fun e => e.id != g.id).any fun e => (e.stat == .faulted || e.stat == .replay)
    && (e.before g || (isGStore e.ins.ins && x.signalHeld g))

/-- A GLDV's data in its save slot of the context save region (R307). -/
def State.saveVec (s : State) (t : TileNo) (c : CtxNo) (id : Nat) : State :=
  match (withVecSlots 14 (s.ctxAt t c).pend).find? fun e => e.1.id == id && isVecAccess e.1.ins.ins with
  | some e => s.onTile t fun x => x.writeSp (0x540000 + c.val * 0x10000 + 0x1000 * e.2) (bytesOfNat 4096 e.1.vec.toNat)
  | none => s

/-- A held store has passed translation: what may go out goes. -/
def State.acceptStore (s : State) (t : TileNo) (c : CtxNo) (id : Nat) : State :=
  (s.onCtx t c fun x => { x with hold := x.hold.map fun h => match h.kind with
    | .store i ea bs _ => if i = id then { h with kind := .store i ea bs true } else h
    | _ => h }).drain t c

/-- A held store leaves the hold without effect. -/
def Ctx.dropStore (x : Ctx) (id : Nat) : Ctx :=
  { x with hold := x.hold.filter fun h => match h.kind with
    | .store i _ _ _ => i != id
    | _ => true }

/-- The class counter falls for an access. -/
def Regs.fell (g : Regs) (a : GAcc) : Regs :=
  if a.uncounted then g else if countsLd a.ins.ins then { g with ld := g.ld - 1 } else { g with st := g.st - 1 }

/-- A complete access writes its register; a context whose task has ended discards the value (R117). -/
def State.gWrite (s : State) (t : TileNo) (c : CtxNo) (g : GAcc) (data : Word) (vec : VImage) : State :=
  if (s.ctxAt t c).run = .winding then s
  else match g.ins.ins, insGX g.ins.ins with
  | .gldv _ _, _ => s.onTile t fun x => x.onPreg g.pv fun r => { r with val := vec }
  | _, some d => s.onCtx t c fun x => { x with regs := x.regs.setX d data }
  | _, none => s

/-- An access is complete: a record of the frame takes its value; any other writes its register and leaves its counter;
what was held for it goes out. -/
def State.finishG (s : State) (t : TileNo) (c : CtxNo) (g : GAcc) (data : Word) (vec : VImage) : State :=
  let keep := fun (k : GAcc) =>
    { k with stat := .done, data := if countsLd g.ins.ins then data else k.data, vec := if isGStore g.ins.ins then k.vec else vec }
  let s1 := if (s.ctxAt t c).inFrame g.id then
      ((s.onCtx t c fun x => x.onAcc g.id keep).saveVec t c g.id).syncFrame t c
    else
      (s.gWrite t c g data vec).onCtx t c fun x =>
        { x with gaccs := x.gaccs.filter fun k => k.id != g.id, regs := x.regs.fell g }
  if isGStore g.ins.ins then s1.acceptStore t c g.id else s1.drain t c

/-- STKY.REMOTE_ERR (R206). -/
def State.remoteErr (s : State) (t : TileNo) (c : CtxNo) : State :=
  s.onCtx t c fun x => { x with regs := { x.regs with stky := x.regs.stky ||| 0x100 }, stkyNow := x.stkyNow ||| 0x100 }

/-- The fault of an access returns. A record of the frame becomes FAULTED, and joins an interrupt's
entry whose handler has not begun, whose CODE then is LOAD_FAULT or STORE_FAULT (R308); a context whose task has ended
drops the access, with what waits for it (log 23). -/
def State.faultG (s : State) (t : TileNo) (c : CtxNo) (g : GAcc) (code : Cause) : State :=
  let x := s.ctxAt t c
  let mark := fun (dlv : Bool) (k : GAcc) =>
    { k with stat := .faulted, fcode := BitVec.ofNat 8 code.code, dlv := dlv }
  if x.run = .winding then
    s.dropGone t c [{ g with stat := .faulted }]
  else match x.frame with
  | some f =>
    if !x.inFrame g.id then s.onCtx t c fun x => x.onAcc g.id (mark false)
    else if !f.handlerIssued ∧ f.cause.extractLsb' 0 8 = 0x40 then
      let w := causeWord (if isGStore g.ins.ins then .storeFault else .loadFault) 6 true 0
      (s.onCtx t c fun x =>
        let y := x.onAcc g.id (mark true)
        { y with
          frame := y.frame.map fun k => { k with cause := w },
          regs := { y.regs with tcause := w }, ints := y.ints ++ [f.cause.extractLsb' 20 10] }).syncFrame t c
    else (s.onCtx t c fun x => x.onAcc g.id (mark false)).syncFrame t c
  | none => s.onCtx t c fun x => x.onAcc g.id (mark false)

/-- A transaction that failed at a peer (R206, R260); a sync operation raises Remote Access Error (log 26). DESIGN
CHOICE (log 84): a plain load into X0 sets STKY.REMOTE_ERR too, since R206 sets it at the completion of the access and
not from a result, whose flags R10 drops for X0. -/
def State.lostG (s : State) (t : TileNo) (c : CtxNo) (g : GAcc) : State :=
  match g.ins.ins with
  | .gldc .. => s.faultG t c g .remoteAccess
  | .gstc .. => s.faultG t c g .remoteAccess
  | i =>
    if isSyncOp i then s.faultG t c g .remoteAccess
    else if isGStore i then (s.onCtx t c fun x => x.dropStore g.id).finishG t c g 0 0 |>.remoteErr t c
    else (s.finishG t c g (BitVec.allOnes 64) (BitVec.allOnes 32768)).remoteErr t c

/-- G_ACCESS_COMPLETION: an access whose time has come takes effect, becomes REPLAY, or faults; one that
R285 orders after an access not complete waits. -/
def execGAccessCompletion (t : TileNo) (c : CtxNo) (id : Nat) (s : State) : Out :=
  let x := s.ctxAt t c
  match x.acc? id, s.partOf t with
  | some g, some p =>
    if g.stat != .outstanding || decide ((s.tile t).cycle < g.due) || x.mustWait g then .next s
    else if x.mustReplay g then .next ((s.onCtx t c fun x => x.onAcc id fun k => { k with stat := .replay }).syncFrame t c)
    else if s.signalBefore t c g || s.flipping p g.range then .next s
    else match s.gEffect t c p g with
    | .fault s1 code => .next (s1.faultG t c g code)
    | .poison => .next (s.poisonTask t c)
    | .lost => .next (s.lostG t c g)
    | .value s1 data vec => .next (s1.finishG t c g data vec)
  | _, _ => .next s

/-- Does an access reach a peer page? -/
def State.atPeer (s : State) (p : PartNo) (g : GAcc) : Bool :=
  match s.leaf p g.ea.toNat with
  | some l => l.isPeer
  | none => false

/-- G_ACCESS_FAULT: an access that is not complete fails. An error at the peer fails a plain access as R206
says; any other code is the one its translation gives. -/
def execGAccessFault (t : TileNo) (c : CtxNo) (id : Nat) (code : BitVec 8) (s : State) : Out :=
  let x := s.ctxAt t c
  match x.acc? id, s.partOf t with
  | some g, some p =>
    if g.stat != .outstanding || x.mustWait g || x.mustReplay g || s.signalBefore t c g || s.flipping p g.range then .next s
    else if code.toNat = Cause.remoteAccess.code then (if s.atPeer p g then .next (s.lostG t c g) else .next s)
    else match s.gEffect t c p g with
    | .fault s1 e => if e.code = code.toNat then .next (s1.faultG t c g e) else .next s
    | _ => .next s
  | _, _ => .next s

/-! ### Meanings -/

def execGld (sx : Bool) (sz : Size) (d : XReg) (g : GAddr) (s : State) : Out :=
  s.conclude (.gld sx sz d g) (issueGld sx sz d g s)
def execGst (sz : Size) (x : XReg) (g : GAddr) (s : State) : Out := s.conclude (.gst sz x g) (issueGst sz x g s)
def execGldv (d : VReg) (g : GAddr) (s : State) : Out := s.conclude (.gldv d g) (issueGldv d g s)
def execGstv (v : VUse) (g : GAddr) (s : State) : Out := s.conclude (.gstv v g) (issueGstv v g s)
def execGatom (op : GatomOp) (sc : Scope) (d x : XReg) (e : SAddr) (s : State) : Out :=
  s.conclude (.gatom op sc d x e) (issueGatom op sc d x e s)
def execGcas (sc : Scope) (d n : XReg) (e : SAddr) (s : State) : Out :=
  s.conclude (.gcas sc d n e) (issueGcas sc d n e s)
def execAcq (sc : Scope) (d : XReg) (e : SAddr) (s : State) : Out := s.conclude (.acq sc d e) (issueAcq sc d e s)
def execRel (op : RelOp) (sc : Scope) (b : XReg) (e : SAddr) (s : State) : Out :=
  s.conclude (.rel op sc b e) (issueRel op sc b e s)
def execAcqs (sc : Scope) (d b : XReg) (e : SAddr) (s : State) : Out :=
  s.conclude (.acqs sc d b e) (issueAcqs sc d b e s)
def execBind (d b c : XReg) (e : SAddr) (s : State) : Out := s.conclude (.bind d b c e) (issueBind d b c e s)
def execUnbind (d : XReg) (e : SAddr) (s : State) : Out := s.conclude (.unbind d e) (issueUnbind d e s)
def execGfence (sc : Scope) (s : State) : Out := s.conclude (.gfence sc) (issueGfence sc s)
def execGpref (lvl : PrefLevel) (g : GAddr) (s : State) : Out := s.conclude (.gpref lvl g) (issueGpref lvl g s)
def execGinv (n : XReg) (g : GAddr) (s : State) : Out := s.conclude (.ginv n g) (issueGinv n g s)
def execGwb (n : XReg) (g : GAddr) (s : State) : Out := s.conclude (.gwb n g) (issueGwb n g s)
def execGldc (sx : Bool) (sz : Size) (d : XReg) (g : GAddr) (s : State) : Out :=
  s.conclude (.gldc sx sz d g) (issueGldc sx sz d g s)
def execGstc (sz : Size) (x : XReg) (g : GAddr) (s : State) : Out := s.conclude (.gstc sz x g) (issueGstc sz x g s)
def execGprobe (d : XReg) (g : GAddr) (s : State) : Out := s.conclude (.gprobe d g) (issueGprobe d g s)

end Sys2Proof.Machine
end

