-- ==== Sys2Proof/Machine/Ready.lean ====
section
/-! DEFINITION. Kernel descriptors (R350, R351), the ranges of a launch (R352, R353), the order of ready
entries and where they are eligible (R355), and where an entry's bays and code find room (R357). -/

namespace Sys2Proof.Machine

/-! ### Kernel descriptors -/

/-- A little-endian field of bytes. -/
def leAt (bs : List Byte) (o n : Nat) : Nat := natOfBytes ((bs.drop o).take n)

/-- Are bytes `o` to `o + n - 1` all 0? -/
def zeroAt (bs : List Byte) (o n : Nat) : Bool := leAt bs o n == 0

/-- A bay entry of a descriptor: the number over an image in BAYCFG's layout. -/
def bayImageOf (w : Nat) : BayImage :=
  { num := Fin.ofNat 64 (natBits w 37 32), own := BitVec.ofNat 4 (natBits w 31 28), keep := w.testBit 27,
    sync := w.testBit 26, shadow := w.testBit 25, size := BitVec.ofNat 12 (natBits w 23 12),
    base := BitVec.ofNat 12 (natBits w 11 0) }

/-- The bay table entry a bay image configures. -/
def BayImage.bay (b : BayImage) (owner : Nat) : Bay :=
  { Bay.start with
    own := b.own, keep := b.keep, sync := b.sync, shadow := b.shadow, size := b.size, base := b.base,
    launch := some owner, st := if b.sync then .ready else .empty }

/-- The rules a bay entry meets by itself. -/
def bayWordOk (w : Nat) : Bool :=
  let b := bayImageOf w
  w / 2 ^ 38 == 0 && !w.testBit 24 && decide (1 ≤ b.size.toNat ∧ b.base.toNat + b.size.toNat ≤ 1328)
    && (!b.shadow || !b.size.getLsbD 0)

/-- No two entries share a number or a unit. -/
def baysApart : List BayImage → Bool
  | [] => true
  | b :: bs => (bs.all fun c => b.num != c.num
      && !meets (b.base.toNat, b.size.toNat) (c.base.toNat, c.size.toNat)) && baysApart bs

/-- The KEEP bays total at most 320 KiB. -/
def keepOk (bs : List BayImage) : Bool := decide ((bs.map fun b => if b.keep then b.size.toNat else 0).sum ≤ 80)

/-- Level entries of KIND 01b T, 10b S, 11b D with their extents; none where one is malformed. -/
def levelsOf : List Nat → Option (List (Nat × Nat))
  | [] => some []
  | w :: ws => match levelsOf ws with
    | none => none
    | some ls =>
      let kind := w / 2 ^ 62 % 4
      let ext := w % 2 ^ 24
      if natBits w 61 24 ≠ 0 then none
      else if kind = 0 then some ls
      else if ext = 0 then none
      else some ((kind, ext) :: ls)

/-- Does every D level come before every S level? -/
def dBeforeS : List (Nat × Nat) → Bool
  | [] => true
  | l :: ls => (l.1 != 2 || ls.all fun m => m.1 != 3) && dBeforeS ls

def prodOf (l : List Nat) : Nat := l.foldl (· * ·) 1

/-- The product of the S and D extents. -/
def Desc.total (d : Desc) : Nat := prodOf d.dext * prodOf d.sext

/-- The descriptor in bytes of its header and bay entries, where it keeps R350 and R351. -/
def parseDesc (bs : List Byte) : Option Desc :=
  let nbay := leAt bs 21 1
  let ws := (List.range nbay).map fun i => leAt bs (128 + 8 * i) 8
  let bays := ws.map bayImageOf
  let flags := leAt bs 14 1
  let fixed := leAt bs 0 8 < 2 ^ 52 && leAt bs 0 8 % 256 == 0 && leAt bs 8 4 % 4 == 0
    && decide (4 ≤ leAt bs 8 4 ∧ leAt bs 8 4 ≤ 32768) && leAt bs 12 2 % 4 == 0 && decide (leAt bs 12 2 < leAt bs 8 4)
    && decide (flags < 4) && (!flags.testBit 0 || flags.testBit 1) && decide (leAt bs 15 1 < 8)
    && leAt bs 16 4 % 256 == 0 && decide (leAt bs 16 4 < mramProg) && decide (1 ≤ leAt bs 20 1 ∧ leAt bs 20 1 ≤ 4)
    && decide (nbay ≤ 64) && decide (leAt bs 22 1 < 8) && zeroAt bs 23 9 && zeroAt bs 52 12 && zeroAt bs 112 16
    && ws.all bayWordOk && baysApart bays && keepOk bays
  match levelsOf ((List.range 6).map fun i => leAt bs (64 + 8 * i) 8) with
  | none => none
  | some ls =>
    let d : Desc :=
      { code := leAt bs 0 8, codesz := leAt bs 8 4, entry := leAt bs 12 2, resumable := flags.testBit 0,
        mcode := flags.testBit 1, prio := BitVec.ofNat 3 (leAt bs 15 1), mramoff := leAt bs 16 4,
        ctxmax := leAt bs 20 1, bays := bays, fifo := BitVec.ofNat 3 (leAt bs 22 1),
        wake := BitVec.ofNat 160 (leAt bs 32 20),
        dext := (ls.filter fun l => l.1 == 3).map (·.2), sext := (ls.filter fun l => l.1 == 2).map (·.2) }
    if fixed && dBeforeS ls && decide (d.total < 2 ^ 32) then some d else none

/-- Why a descriptor is refused. -/
inductive DescErr | malformed | translation
  deriving DecidableEq, Repr

/-- A descriptor read in one access of 128 + 8 × NBAY bytes (R347). -/
def State.readDesc (s : State) (p : PartNo) (a : Nat) : Except DescErr Desc :=
  match s.hubRead p a 128 with
  | none => .error .translation
  | some hd =>
    if a % 64 ≠ 0 then .error .malformed
    else match s.hubRead p (a + 128) (8 * leAt hd 21 1) with
    | none => .error .translation
    | some bays => match parseDesc (hd ++ bays) with
      | some d => .ok d
      | none => .error .malformed

/-- The eight launch words at an address (R125). -/
def State.readWords (s : State) (p : PartNo) (a : Nat) : Option (Vector Word 8) :=
  (s.hubRead p a 64).map fun bs => Vector.ofFn fun i : Fin 8 => BitVec.ofNat 64 (leAt bs (8 * i.val) 8)

/-! ### Ranges (R352, R353) -/

/-- The die of a tile (R1). -/
def dieOf (t : TileNo) : Nat := t.val / 40

/-- The tiles of a descriptor's WAKE that lie in a partition. -/
def State.wakeTiles (s : State) (p : PartNo) (d : Desc) : List TileNo :=
  (s.tilesOf p).filter fun t => d.wake.getLsbD t.val

/-- The root ranges of a launch of `n` indices. -/
def State.rootRanges (s : State) (p : PartNo) (d : Desc) (n : Nat) : List Range :=
  if d.dext.isEmpty then [⟨0, n, none, none⟩]
  else
    let dies := ((s.wakeTiles p d).map dieOf).eraseDups
    let ns := n / prodOf d.dext
    (List.range (prodOf d.dext)).map fun k =>
      ⟨k * ns, (k + 1) * ns, if dies.isEmpty then none else some (dies.getD (k % dies.length) 0), none⟩

/-- Is a range not empty? -/
def Range.live (r : Range) : Bool := decide (r.lo < r.hi)

/-- Does a launch have waiting indices that it still hands out? -/
def Launch.waiting (l : Launch) : Bool := !l.noMore && l.ranges.any Range.live

/-- May a context of a tile take from a range (R352)? -/
def Range.allows (r : Range) (t : TileNo) : Bool :=
  match r.die with
  | none => true
  | some d => d == dieOf t

/-- The largest of waiting ranges, the lowest on a tie. -/
def largest : List Range → Option Range
  | [] => none
  | r :: rs => match largest rs with
    | none => some r
    | some q => if q.hi - q.lo < r.hi - r.lo ∨ (q.hi - q.lo = r.hi - r.lo ∧ r.lo < q.lo) then some r else some q

/-- What a context takes from a launch: its index, and the ranges after (R353). -/
def takeIndex (rs : List Range) (t : TileNo) (c : CtxNo) : Option (Nat × List Range) :=
  let mine := fun (r : Range) => r.owner == some (t, c) && r.live
  match rs.find? mine with
  | some r => some (r.lo, (rs.map fun q => if q = r then { q with lo := q.lo + 1 } else q).filter Range.live)
  | none =>
    match largest (rs.filter fun r => r.live && r.allows t) with
    | none => none
    | some r =>
      let n := r.hi - r.lo
      let m := r.lo + n / 2
      if 2 ≤ n then
        some (m, ((rs.map fun q => if q = r then { q with hi := m } else q)
          ++ [(⟨m + 1, r.hi, r.die, some (t, c)⟩ : Range)]).filter Range.live)
      else if r.owner.isNone then some (r.lo, (rs.filter fun q => q != r))
      else none

/-- A context's owned ranges given back as unowned waiting ranges (R353). -/
def giveBack (rs : List Range) (t : TileNo) (c : CtxNo) : List Range :=
  rs.map fun r => if r.owner = some (t, c) then { r with owner := none } else r

/-- A context takes no more from a partition's launches but the one in `keep`. -/
def State.returnRanges (s : State) (p : PartNo) (t : TileNo) (c : CtxNo) (keep : Option Nat) : State :=
  s.onPart p fun x => { x with tasks := x.tasks.map fun e => match e.2.use with
    | some (.launch l) =>
      if some e.1 = keep then e else (e.1, { e.2 with use := some (.launch { l with ranges := giveBack l.ranges t c }) })
    | _ => e }

/-! ### Ready entries (R355) -/

inductive EntryKind
  | launch (slot : Nat)
  | spawn (slot : Nat)
  | cont (i : Nat)
  | saved (slot : Nat)
  deriving DecidableEq, Repr

/-- An entry with what orders it. -/
structure Entry where
  prio : Nat
  ready : Nat
  index : Nat
  kind : EntryKind
  deriving DecidableEq, Repr

/-- Does an entry go before another? -/
def Entry.first (a b : Entry) : Bool :=
  decide (b.prio < a.prio ∨ (a.prio = b.prio ∧ (a.ready < b.ready ∨ (a.ready = b.ready ∧ a.index < b.index))))

/-- The priority of a launch as it stands. -/
def State.launchPrio (s : State) (l : Launch) : Nat :=
  match l.origin with
  | .queue f q => ((s.func f).queues[q]).prio.toNat
  | .table _ p => p.toNat

/-- The ready entries of a partition. -/
def State.entries (s : State) (p : PartNo) : List Entry :=
  let x := s.part p
  (x.tasks.filterMap fun e => match e.2.use with
    | some (.launch l) => if l.waiting then some ⟨s.launchPrio l, l.readyAt, e.1, .launch e.1⟩ else none
    | some (.spawn k) => match k.readyAt, k.desc, k.running with
      | some at_, some d, false => some ⟨d.prio.toNat, at_, e.1, .spawn e.1⟩
      | _, _, _ => none
    | some .saved => none
    | none => none)
  ++ (x.conts.filterMap fun e => e.2.ready.map fun r => ⟨e.2.task.prio.toNat, r.2, 16384 + e.1, .cont e.1⟩)
  ++ (x.saves.filterMap fun e =>
      if e.2.taken then none else some ⟨e.2.task.prio.toNat, e.2.readyAt, e.1, .saved e.1⟩)

/-! ### Eligibility (R355) and room (R357) -/

/-- The tasks on a tile. -/
def Tile.tasks (x : Tile) : List Task := x.ctxs.toList.filterMap fun c => if c.run = .free then none else c.task

/-- Fewer than two tasks on the tile declare AF or BF. -/
def Tile.feedRoom (x : Tile) (d : Desc) : Bool :=
  d.fifo.extractLsb' 0 2 == 0 || decide ((x.tasks.filter (·.feeds)).length < 2)

/-- A descriptor's bays placed on a tile for the launch or spawned task of a handle: shared where they
stand already, configured where they fit, none where one finds no room. -/
def Tile.placeBays (x : Tile) (owner : Nat) : List BayImage → Option Tile
  | [] => some x
  | b :: bs =>
    let e := b.bay owner
    let old := x.bay b.num
    if old.launch = some owner ∧ { old with st := e.st, front := e.front } = e then x.placeBays owner bs
    else if old.configured ∨ x.cfgCode b.num e false ≠ 0 then none
    else
      let y := x.onBay b.num fun _ => e
      (if b.sync then y.zeroBay e else y).placeBays owner bs

/-- The bank a PC names. -/
def Ctx.bank (x : Ctx) : Fin 2 := pcBank x.regs.pc

/-- Is a bank named by a task's PC, or by the resume PC of a continuation or a pre-empted task that waits
for the tile? -/
def State.bankNamed (s : State) (p : PartNo) (t : TileNo) (k : Fin 2) : Bool :=
  ((s.tile t).ctxs.toList.any fun c => c.run != .free && (c.run != .selected || c.regs.nres) && c.bank == k)
    || ((s.part p).conts.any fun e => e.1 / 16 == t.val && pcBank e.2.resume == k)
    || ((s.part p).saves.any fun e => e.2.tile == t && e.2.ctx.bank == k)

/-- Whose image the code of the spawned tasks of a descriptor is (log 86). -/
def spawnKey (descAddr : Nat) : Nat := 2 ^ 40 + descAddr

/-- Whose image a task's code is: its launch's, or that of the tasks spawned from its descriptor, which R355 takes as
one group (R357, log 86). -/
def Task.codeKey (k : Task) : Nat := if k.launch then k.owner else spawnKey k.descAddr

/-- Has a task with other code reserved a bank by a copy (R215, R357)? -/
def Tile.reservedFrom (x : Tile) (k : Fin 2) (key : Nat) : Bool :=
  (x.banks[k]).resv.any fun r => !(x.tasks.any fun n => n.tid == r.1 && Task.codeKey n == key)

/-- The bank an image goes to, and whether it must be loaded. -/
def State.pickBank (s : State) (p : PartNo) (t : TileNo) (code key : Nat) : Option (Fin 2 × Bool) :=
  let x := s.tile t
  match (List.finRange 2).find? fun k => (x.banks[k]).image == some (key, code) && !x.reservedFrom k key with
  | some k => some (k, false)
  | none => match (List.finRange 2).find? fun k => !s.bankNamed p t k && (x.banks[k]).resv.isEmpty
      && !(x.banks[k]).loading with
    | some k => some (k, true)
    | none => none

/-- Can a tile place an entry's bays and code? -/
def State.placeable (s : State) (p : PartNo) (t : TileNo) (d : Desc) (owner key : Nat) : Bool :=
  ((s.tile t).placeBays owner d.bays).isSome && (s.pickBank p t d.code key).isSome

/-- Is a launch's or a spawned task's descriptor eligible for a tile, but for its ranges? -/
def State.fits (s : State) (p : PartNo) (t : TileNo) (d : Desc) (owner key : Nat) (group : Task → Bool) : Bool :=
  s.partOf t == some p && d.wake.getLsbD t.val && decide (((s.tile t).tasks.filter group).length < d.ctxmax)
    && (s.tile t).feedRoom d && s.placeable p t d owner key

/-- Does a launch hold a range for some context of a tile? -/
def Launch.hasFor (l : Launch) (t : TileNo) : Bool := allCtxs.any fun c => (takeIndex l.ranges t c).isSome

/-- Has another task reserved the bank of a task that comes back (R215, R443)? -/
def Tile.bankBarred (x : Tile) (b : Fin 2) (tid : Nat) : Bool := (x.banks[b]).resv.any fun r => r.1 != tid

/-- Is an entry eligible for context `c` of tile `t`, or with none for the tile? One that comes back goes to its tile, and
waits while another task holds its bank reserved. -/
def State.eligible (s : State) (p : PartNo) (t : TileNo) (c : Option CtxNo) (e : Entry) : Bool :=
  match e.kind with
  | .cont i => i / 16 == t.val && match s.cont? p i with
    | some k => !(s.tile t).bankBarred (pcBank k.resume) k.task.tid
    | none => true
  | .saved i => match Map.get? (s.part p).saves i with
    | some k => k.tile == t && !(s.tile t).bankBarred k.ctx.bank k.task.tid
    | none => false
  | .launch i => match Map.get? (s.part p).tasks i with
    | some ⟨_, some (.launch l)⟩ =>
      (match c with
        | some c => (takeIndex l.ranges t c).isSome
        | none => l.hasFor t) && s.fits p t l.desc (s.slotHandle p i) (s.slotHandle p i) fun k => k.launch && k.slot == i
    | _ => false
  | .spawn i => match Map.get? (s.part p).tasks i with
    | some ⟨_, some (.spawn k)⟩ => match k.desc with
      | some d => s.fits p t d (s.slotHandle p i) (spawnKey k.descAddr) fun n => n.spawned && n.descAddr == k.descAddr
      | none => false
    | _ => false

/-- The first of entries. -/
def firstEntry : List Entry → Option Entry
  | [] => none
  | e :: es => match firstEntry es with
    | none => some e
    | some f => if f.first e then some f else some e

/-- What a context of a tile receives when it asks. -/
def State.choose (s : State) (p : PartNo) (t : TileNo) (c : CtxNo) : Option Entry :=
  firstEntry ((s.entries p).filter (s.eligible p t (some c)))

/-- Does an accepted launch with waiting indices eligible for the tile name it in WAKE (R386)? -/
def State.launchWants (s : State) (p : PartNo) (t : TileNo) : Bool :=
  (s.part p).tasks.any fun e => match e.2.use with
    | some (.launch l) => l.waiting && l.desc.wake.getLsbD t.val && s.eligible p t none ⟨0, 0, 0, .launch e.1⟩
    | _ => false

end Sys2Proof.Machine
end

