-- ==== Sys2Proof/Machine/Bell.lean ====
section
/-! DEFINITION. Tile power (R226, R385 to R388) and cluster levels (R384, R389 to R391) as the Bell and the
power manager move them. -/

namespace Sys2Proof.Machine

/-! ### Power-off (R386, R387) -/

def isTilewk : Instr → Bool
  | .tilewk _ _ => true
  | _ => false

def isTileoff : Instr → Bool
  | .tileoff _ => true
  | _ => false

/-- The conditions of R386 on a tile that is to lose power, but for the off delay. A TILEOFF of the tile's own that has
reached the Bell keeps no tile on (R388's example; log 91). -/
def State.mayOff (s : State) (t : TileNo) : Bool :=
  let x := s.tile t
  (x.ctxs.toList.all fun c => c.run == .free) && (x.cmds.all fun k => isTileoff k.ins.ins) && decide (x.holdUntil ≤ s.now)
    && (x.bays.toList.all fun b => !(b.configured && b.keep)) && match s.partOf t with
      | some p => !s.launchWants p t
      | none => true

/-- A bay over a power-off (R387). -/
def Bay.powered (b : Bay) : Bay :=
  if !b.configured then b else if b.sync then { b with st := .ready } else { b with st := .empty }

/-- How long a power-off takes (R386). -/
def offNs : Nat := 600

/-- The steps of R387: dirty bytes written back, bays EMPTY or zero-filled; what the tile loses is gone. -/
def State.beginOff (s : State) (t : TileNo) : State :=
  let s1 := s.writeBack t none wholeSpace .part
  (s1.onTile t fun x =>
    { x with
      power := .goingOff false, idleSince := s.now, bays := x.bays.map Bay.powered, l1 := [], sp := [],
      spPoison := [], home := [], pool := Vector.replicate 56 ⟨none, 0, 0, 0⟩ }).schedAt
    (s.now + nanos offNs) (orderKey t 0) (.offDelay t)

/-- A tile named by TILEOFF: its hold ends, and it powers off where R386 lets it. -/
def State.offNow (s : State) (t : TileNo) : State :=
  let s1 := s.onTile t fun x => { x with holdUntil := 0 }
  let x := s1.tile t
  if (x.power = .run ∨ x.power = .idle) ∧ s1.mayOff t then s1.beginOff t else s1

/-- The off delay of a tile's partition, in ticks. -/
def State.offTicks (s : State) (t : TileNo) : Nat :=
  match s.partOf t with
  | some p => nanos (s.part p).offDelay
  | none => nanos 20000

/-- A tile in OFF holds no bank image, and CYCLE restarts, with what was counted in its clocks (R387). -/
def Tile.nowOff (x : Tile) : Tile :=
  { x with
    power := .off, banks := Vector.replicate 2 Bank.start, cycle := 0, vFree := 0, wFree := 0, arrayFree := 0,
    spill := none, barAt := [] }

/-! ### The steps -/

/-- May a tile go to IDLE: every context free or halted, no command outstanding, for 64 clocks? -/
def Tile.quiet (x : Tile) : Bool :=
  (x.ctxs.toList.all fun c => c.run == .free || c.run == .halted) && x.cmds.all fun k => isTileoff k.ins.ins

/-- TILE_IDLE. -/
def execTileIdle (t : TileNo) (s : State) : Out :=
  let x := s.tile t
  if x.power = .run ∧ x.quiet ∧ 64 ≤ x.idleClocks then
    .next ((s.setTile t { x with power := .idle, idleSince := s.now }).schedAt
      (s.now + s.offTicks t) (orderKey t 0) (.offDelay t))
  else .next s

/-- An idle tile looks at a tick whether it may power off: the one time it has in the agenda. -/
def State.lookOff (s : State) (t : TileNo) (at_ : Nat) : State :=
  (s.dropEvents fun e => e == .offDelay t).schedAt at_ (orderKey t 0) (.offDelay t)

/-- Commands of a kind that wait for tiles: one tile they wait for has got there, and they look again (R226). -/
def State.tileDone (s : State) (t : TileNo) (waits : Instr → Bool) : State :=
  allTiles.foldl (fun s u => (s.tile u).cmds.foldl (fun s k =>
    if waits k.ins.ins ∧ k.stat = .started ∧ k.tiles.contains t.val then
      (s.onTile u fun x => x.onCmd k.id fun k => { k with tiles := k.tiles.filter (· != t.val) }).schedAt
        s.now (orderKey u k.ctx) (.copyPublish u k.id)
    else s) s) s

/-- OFF_DELAY: the delay is over and the tile powers off, or looks again within a microsecond while a condition of
R386 keeps it from that (log 16); or a power-off under way ends, the TILEOFF that asked for it with it, and a wake that
came meanwhile begins. -/
def execOffDelay (t : TileNo) (s : State) : Out :=
  let x := s.tile t
  match x.power with
  | .idle =>
    if s.now < x.idleSince + s.offTicks t then .next (s.lookOff t (x.idleSince + s.offTicks t))
    else if s.mayOff t then .next (s.beginOff t)
    else .next (s.drew.lookOff t (s.now + s.delay (nanos 100) (nanos 1000)))
  | .goingOff w =>
    if s.now < x.idleSince + nanos offNs then .next s
    else
      let s1 := (s.setTile t x.nowOff).tileDone t isTileoff
      .next (if w then s1.wake t else s1)
  | _ => .next s

/-- TILE_WAKE: the tile is in RUN, and TILEWK commands that wait for it look again. -/
def execTileWake (t : TileNo) (s : State) : Out :=
  let x := s.tile t
  match x.power with
  | .waking =>
    let s1 := s.setTile t { x with power := .run, idleClocks := 0, nextAt := s.now + s.tilePeriod t }
    .next (s1.tileDone t isTilewk)
  | _ => .next s

/-- TILEWK_HOLD_EXPIRY: nothing holds the tile any more; an idle one is looked at. -/
def execTilewkHoldExpiry (t : TileNo) (s : State) : Out :=
  if s.now < (s.tile t).holdUntil then .next s
  else
    let s1 := s.onTile t fun x => { x with holdUntil := 0 }
    if (s.tile t).power = .idle then .next (s1.lookOff t s.now) else .next s1

/-! ### Levels (R384, R389 to R391) -/

/-- One step down for a cluster above L0: at once, or when a change that is under way ends (R384, R390). A raise under way
is given up, and a second step that falls due while a fall is under way lengthens it, so that no step is missed. -/
def State.lowerOne (s : State) (k : ClusterNo) : State :=
  let x := s.clusters[k]
  match x.change with
  | some w =>
    if x.level < w then
      ((s.onCluster k fun x => { x with change := some x.level, lowers := true }).dropEvents fun e =>
        e == .levelChangeComplete k).sched 0 (nanos 2000) 1000 (.levelChangeComplete k)
    else if x.lowers ∧ 0 < x.level then
      (s.switchClock k (x.level - 1)).onCluster k fun y => { y with change := some (x.level - 1) }
    else s.onCluster k fun x => { x with lowers := true }
  | none =>
    if x.level = 0 then s.onCluster k fun x => { x with lowers := false }
    else ((s.switchClock k (x.level - 1)).onCluster k fun y => { y with change := some (x.level - 1), lowers := false }).sched 0
      (nanos 2000) 1000 (.levelChangeComplete k)

/-- LEVEL_CHANGE_COMPLETE: the clock is at its new level, and requests that came meanwhile are applied. -/
def execLevelChangeComplete (k : ClusterNo) (s : State) : Out :=
  match (s.clusters[k]).change with
  | none => .next s
  | some w =>
    let s1 := (s.switchClock k w).onCluster k fun x => { x with change := none }
    .next (if (s1.clusters[k]).lowers then s1.lowerOne k else s1.relevel k)

/-- All clusters. -/
def allClusters : List ClusterNo := List.finRange 40

/-- One step down for every cluster above L0, and no other for 10 µs. -/
def State.lowerAll (s : State) : State :=
  if s.pkg.lowered.any fun at_ => decide (s.now < at_ + nanos 10000) then s
  else allClusters.foldl (fun s k => s.lowerOne k) { s with pkg := { s.pkg with lowered := some s.now } }

/-- THROTTLE_STEP: over the limit every cluster falls one step, at most one in 10 µs; within the limit the throttle ends
and levels recover. -/
def execThrottleStep (hot : Bool) (s : State) : Out :=
  if hot then
    let s1 := if s.pkg.throttled then s
      else { s with pkg := { s.pkg with throttled := true, throttles := s.pkg.throttles + 1 } }
    .next s1.lowerAll
  else if s.pkg.throttled then
    let s1 := { s with
      pkg := { s.pkg with throttled := false, recovering := true },
      clusters := s.clusters.map fun x : Cluster => ({ x with lowers := false } : Cluster) }
    .next ((s1.dropEvents fun e => e == .levelRecoveryStep).schedAt (s.now + nanos 100000) 1000 .levelRecoveryStep)
  else .next s

/-- LEVEL_RECOVERY_STEP: every cluster below the level R138 gives rises one step; 100 µs later the next. -/
def execLevelRecoveryStep (s : State) : Out :=
  if s.pkg.throttled then .next s
  else
    let low := allClusters.filter fun k => decide ((s.clusters[k]).level < s.wantedLevel k)
    let s1 := low.foldl (fun s k =>
      if (s.clusters[k]).change.isSome then s
      else (s.onCluster k fun x => { x with change := some (x.level + 1) }).sched 0 (nanos 20000) 1000
        (.levelChangeComplete k)) s
    .next (if low.isEmpty then { s1 with pkg := { s1.pkg with recovering := false } }
      else s1.schedAt (s.now + nanos 100000) 1000 .levelRecoveryStep)

/-- CLUSTER_COUNTER_SAMPLE: CRUN and CSTALL of every cluster join its ring of 256 samples. -/
def execClusterCounterSample (s : State) : Out :=
  let sample := fun (x : Cluster) => (x.samples ++ [(x.crun, x.cstall)]).drop (x.samples.length - 255)
  let s1 := { s with clusters := s.clusters.map fun x : Cluster => ({ x with samples := sample x } : Cluster) }
  .next (s1.schedAt (s.now + nanos 10000) 1000 .clusterCounterSample)

/-- DEFAULT_LEVEL_SET: DL, from FL to L7. -/
def execDefaultLevelSet (k : ClusterNo) (l : Fin 8) (s : State) : Out :=
  if l < Config.fusedLevel k then .next s
  else .next ((s.onCluster k fun x => { x with dl := l }).relevel k)

/-- BUDGET_LEVEL_SET: BL. -/
def execBudgetLevelSet (k : ClusterNo) (l : Fin 8) (s : State) : Out :=
  .next ((s.onCluster k fun x => { x with bl := l }).relevel k)

/-- OFF_DELAY_SET: a partition's off delay, from 2 µs to 1 ms; its idle tiles count it from when they went to IDLE. -/
def execOffDelaySet (p : PartNo) (ns : Nat) (s : State) : Out :=
  if 2000 ≤ ns ∧ ns ≤ 1000000 then
    let s1 := s.onPart p fun x => { x with offDelay := ns }
    .next ((s1.tilesOf p).foldl (fun s t =>
      if (s.tile t).power = .idle then s.lookOff t (max s.now ((s.tile t).idleSince + s.offTicks t)) else s) s1)
  else .next s

/-- TILE_REINSTATE: the PF reinstates a quarantined tile, which has passed a full test at RUN (R388; log 91): it takes tasks
again. -/
def execTileReinstate (t : TileNo) (s : State) : Out :=
  if s.pkg.state = .run then .next (s.onTile t fun x => { x with quarantined := false }) else .next s

end Sys2Proof.Machine
end

