-- ==== Sys2Proof/Machine/Engine.lean ====
section
/-! DEFINITION. Engine commands (R211 to R222, R226, R227): what their issue does, copies with their shapes,
sources and publishes, PUB, CFEED, TILEWK, TILEOFF and EVPOST. -/

namespace Sys2Proof.Machine

/-! ### Issue (R216, R220, R318) -/

/-- Two operand checks: the first trap, else a block, else what follows. -/
def both (a b k : Issue) : Issue :=
  match a, b with
  | .trap c, _ => .trap c
  | _, .trap c => .trap c
  | .block, _ => .block
  | _, .block => .block
  | _, _ => k

/-- A check that passed. -/
def passed : Issue := .done id

/-- A command as its issue makes it. -/
def State.newCmd (r s : State) (i : Instr) (ops : Vector Word 4) (slot : Option SlotNo) : Cmd :=
  { id := r.nextId, ctx := s.curCtx, tid := s.tid, ctxid := s.ctxid s.curTile s.curCtx, ins := r.flagged i,
    ops := ops, stat := .held, slot := slot, seg := s.cx.seg, buf := [], sums := [], crc := 0, crcBad := false,
    srcBay := none, dstBay := none, srcPrior := .ready, dstPrior := .empty, prog := 0, bar := none,
    inn := false, out := false, poison := false, tiles := [], cover := [],
    origin := s.curTask.owner, born := s.now, doom := none, reserves := false,
    under := [], underSp := [], srcs := [], landed := 0 }

/-- A command joins the tile's commands; its status slot is 0. -/
def State.putCmd (r : State) (k : Cmd) : State :=
  let r1 := match k.slot with
    | some n => r.onRegs fun g => { g with slots := g.slots.set n 0 }
    | none => r
  (r1.onTile r.curTile fun x => { x with cmds := x.cmds ++ [k] }).fresh

/-- A command issued and held: it takes 16 entries of the hold. -/
def State.holdCmd (r s : State) (k : Cmd) : Option State :=
  r.addCp.map fun r => (r.putCmd k).holdStep 16 (.copyStart s.curTile k.id)

/-- A barrier on another tile, or a reference that is not valid, is registered with when the command is
released: the step goes ahead of the command. -/
def State.registerLater (r s : State) (k : Cmd) (w : Word) (inn out : Bool) : Option State :=
  r.addCp.map fun r =>
    ((r.putCmd k).holdStep 0 (.barrierReferenceStep s.curTile s.curCtx s.tid (.register k.id inn out) w)).holdStep 16
      (.copyStart s.curTile k.id)

/-- A command that registers with a barrier: on the issuing tile at its issue (R216). -/
def State.registerCmd (r s : State) (k : Cmd) (w : Word) (inn out : Bool) : Option State :=
  if !inn ∧ !out then r.holdCmd s k
  else match s.barRefBy s.curPart s.curTile s.curCtx w with
  | some (u, _, o) =>
    if u = s.curTile then
      let r0 := (r.settleRefs o).readRanges [(o, 16)]
      match raiseBar (r0.bar u o) inn out with
      | some b =>
        ((r0.pPut o (bytesOfNat 16 b.toNat)).tookTurn o).holdCmd s { k with bar := some w, inn := inn, out := out }
      | none => r0.holdCmd s { k with doom := some 9 }
    else r.registerLater s k w inn out
  | none => r.registerLater s k w inn out

/-- The bay a locator of the issuing tile names. -/
def State.locBay (s : State) (bay : Bool) (w : Word) : Option BayNo :=
  if bay then (bayLoc s.curTile w).map (·.1) else none

/-- The bank a destination locator names. -/
def locBank (w : Word) : Fin 2 := Fin.ofNat 2 (w.toNat / 0x8000)

/-- A copy into a bank reserves it for its task; where another task has reserved it, the copy raises Bank In Use
(R215). -/
def State.reserve (r s : State) (k : Cmd) (sp : DstSpace) (w : Word) : State × Cmd :=
  match sp with
  | .bank =>
    let n := locBank w
    if ((r.tile s.curTile).banks[n]).resv.any fun q => q.1 != s.tid then (r, { k with doom := some 8 })
    else
      (r.onTile s.curTile fun x =>
        { x with banks := x.banks.set n { x.banks[n] with resv := x.banks[n].resv ++ [(s.tid, k.id)] } },
        { k with reserves := true })
  | _ => (r, k)

/-- Does a copy name a global locator (R327)? -/
def CopyCtl.global (c : CopyCtl) : Bool := c.ssp == .global || c.dsp == .global

/-- A copy, once its locators pass. -/
def State.copyCmd (s : State) (i : Instr) (ops : Vector Word 4) (ctl : CopyCtl) (check : Issue) (ts : List Nat) : Issue :=
  both (s.srcCheck ctl.ssp ops[1] passed) check
    (.ok fun r =>
      let k := { r.newCmd s i ops ctl.slot with
        srcBay := s.locBay (ctl.ssp == .bay) ops[1], dstBay := s.locBay (ctl.dsp == .bay) ops[2], tiles := ts }
      let q := r.reserve s k ctl.dsp ops[2]
      (q.1.registerCmd s q.2 ops[0] ctl.bin ctl.bout).map fun r => if CopyCtl.global ctl then r.setNres else r)

/-- Four operand values. -/
def four (a b c d : Word) : Vector Word 4 := #v[a, b, c, d]

def issueCpy (b sr d rr : XReg) (ctl : CopyCtl) (s : State) : Issue :=
  s.copyCmd (.cpy b sr d rr ctl) (four (s.x b) (s.x sr) (s.x d) (s.x rr)) ctl (s.dstCheck ctl.dsp (s.x d) passed) []

def issueCpyi (b sr d : XReg) (ctl : CopyCtl) (n : BitVec 32) (s : State) : Issue :=
  s.copyCmd (.cpyi b sr d ctl n) (four (s.x b) (s.x sr) (s.x d) 0) ctl (s.dstCheck ctl.dsp (s.x d) passed) []

def issueCpys (e sr d rr : XReg) (ctl : CopyCtl) (s : State) : Issue :=
  s.copyCmd (.cpys e sr d rr ctl) (four (s.x e) (s.x sr) (s.x d) (s.x rr)) ctl (s.dstCheck ctl.dsp (s.x d) passed) []

/-- The tiles a range word names. -/
def tileRange (w : Word) : List Nat :=
  (List.range (w.extractLsb' 8 8).toNat).map fun i => (w.extractLsb' 0 8).toNat + i

/-- CPYB's destination at issue: the bay of the issuing tile where the range holds it (R218, log 27). -/
def State.bcastCheck (s : State) (ts : List Nat) (w : Word) : Issue :=
  if ts.contains s.curTile.val then s.dstCheck .bay w passed
  else if (bayLoc s.curTile w).isSome then passed else .trap .illegalOperand

def issueCpyb (m sr d rr : XReg) (ctl : CopyCtl) (s : State) : Issue :=
  let ts := tileRange (s.x m)
  .check (decide (1 ≤ ts.length ∧ ts.length ≤ 40)) .illegalOperand
    (s.copyCmd (.cpyb m sr d rr ctl) (four (s.x m) (s.x sr) (s.x d) (s.x rr)) ctl (s.bcastCheck ts (s.x d)) ts)

def issuePub (mask : BitVec 16) (s : State) : Issue :=
  .ok fun r => r.holdCmd s (r.newCmd s (.pub mask) (four 0 0 0 0) none)

def issueCstat (d : XReg) (n : SlotNo) (s : State) : Issue := .done fun r => r.flyX 1 d s.cx.regs.slots[n]

/-- What CABRT 31 aborts: copies, CFEED, MWR and PUB (R221). -/
def Cmd.bulk (k : Cmd) : Bool :=
  match k.ins.ins with
  | .cpy .. | .cpyi .. | .cpys .. | .cpyb .. | .cfeed .. | .mwr .. | .pub _ => true
  | _ => false

/-- Does CABRT name a command? -/
def AbortSel.names (sel : AbortSel) (k : Cmd) : Bool :=
  k.stat != .complete && match sel with
    | .slot n => k.slot == some n && k.abortable
    | .all => k.bulk

def issueCabrt (sel : AbortSel) (s : State) : Issue :=
  .done fun r => (r.tile s.curTile).cmds.foldl (fun r k =>
    if k.ctx = s.curCtx ∧ k.tid = s.tid ∧ AbortSel.names sel k then r.abortCmd s.curTile k.id else r) r

/-- The tile range of TILEWK and TILEOFF (R226). -/
def rangeOk (w : Word) : Bool :=
  w.toNat < 2 ^ 16 && decide (1 ≤ (tileRange w).length ∧ (tileRange w).length ≤ 160)

def issueTilewk (a : XReg) (hold : BitVec 16) (s : State) : Issue :=
  .check (rangeOk (s.x a)) .illegalOperand
    (.ok fun r => r.holdCmd s { r.newCmd s (.tilewk a hold) (four 0 (s.x a) 0 0) none with tiles := tileRange (s.x a) })

def issueTileoff (a : XReg) (s : State) : Issue :=
  .check (rangeOk (s.x a)) .illegalOperand
    (.ok fun r => r.holdCmd s { r.newCmd s (.tileoff a) (four 0 (s.x a) 0 0) none with tiles := tileRange (s.x a) })

def issueEvpost (a : XReg) (ev : BitVec 12) (s : State) : Issue :=
  .ok fun r => r.holdCmd s (r.newCmd s (.evpost a ev) (four 0 (s.x a) 0 0) none)

/-- The bytes of a panel. -/
def Feed.bytes : Feed → Nat
  | .af ty => 16 * MType.recBytes ty
  | .bf ty => 64 * MType.recBytes ty
  | .mq => 256

/-- A path of a tile that commands share (R331, R342): that of its CFEEDs from bays, the read path of MRAM, that to global
memory. -/
inductive Path | bay | mram | glob

/-- The bytes that a path moves in a clock at L7. -/
def Path.rate : Path → Nat
  | .bay => 2048
  | .mram => 256
  | .glob => 256

/-- The tick until which a path is in use. -/
def Tile.pathFree (x : Tile) : Path → Nat
  | .bay => x.feedBay
  | .mram => x.feedMem
  | .glob => x.feedGlob

/-- A path in use until a tick. -/
def Tile.usePath (x : Tile) (p : Path) (till : Nat) : Tile :=
  match p with
  | .bay => { x with feedBay := till }
  | .mram => { x with feedMem := till }
  | .glob => { x with feedGlob := till }

/-- The path of a feed. -/
def SrcSpace.feedPath (ssp : SrcSpace) : Path :=
  match ssp with
  | .bay => .bay
  | .mram => .mram
  | .global => .glob

/-- The ticks that bytes take at a rate of bytes a clock at L7. -/
def transfer (n rate : Nat) : Nat := (210 * n + rate - 1) / rate

/-- A CFEED's next panel follows `lead` ticks from now at the earliest, when its path has brought it. A CFEED takes
neither of the tile's two copy engines (DESIGN CHOICE, log 87). -/
def State.feedNext (s : State) (t : TileNo) (k : Cmd) (f : Feed) (ssp : SrcSpace) (lead : Nat) : State :=
  let p := SrcSpace.feedPath ssp
  let done := max (s.now + lead) ((s.tile t).pathFree p) + transfer (Feed.bytes f) (Path.rate p)
  (s.onTile t fun x => x.usePath p done).sched (done - s.now) (done - s.now + nanos engineNs) (orderKey t k.ctx)
    (.cfeedPanelAvailable t k.id)

/-- CFEED is not held: it starts at its issue (R318). -/
def issueCfeed (n sr p : XReg) (f : Feed) (ssp : SrcSpace) (s : State) : Issue :=
  .check (decide (1 ≤ (s.x n).toNat ∧ (s.x n).toNat ≤ 65535)) .illegalOperand
    (both (s.srcCheck ssp (s.x sr) passed) passed
      (.ok fun r => r.addCp.map fun r =>
        let k := { r.newCmd s (.cfeed n sr p f ssp) (four (s.x n) (s.x sr) (s.x p) 0) none with
          stat := .started, srcBay := s.locBay (ssp == .bay) (s.x sr) }
        let r1 := (r.putCmd k).feedNext s.curTile k f ssp (210 * 120)
        if ssp = .global then r1.setNres else r1))

/-! ### Sources (R185, R212, R214, R293) -/

/-- Is a flip of a page of the tile's partition under way? Engine accesses to global memory wait for it (R299,
log 16). -/
def State.anyFlip (s : State) (t : TileNo) : Bool :=
  match s.partOf t with
  | some p => (s.part p).jobs.any (·.flip)
  | none => false

/-- Global bytes as the issuing context reads them. -/
def State.srcGlobal (s : State) (t : TileNo) (p : PartNo) : List (Nat × Nat) → Except Nat (List Byte × Bool)
  | [] => .ok ([], false)
  | q :: qs => match s.translate p q.1 false with
    | .error _ => .error 7
    | .ok h =>
      if s.lost h && (s.line? t (lineKey p q.1)).isNone then .error 19
      else match s.srcGlobal t p qs with
      | .error e => .error e
      | .ok r => .ok (s.peekLine t p q.1 q.2 h ++ r.1, s.peekBad t p q.1 q.2 h || r.2)

/-- `n` bytes of a command's source at `off` from its locator, as the command's issue would have read them (R293), with
whether they hold poison; or the detail of the fault. -/
def State.srcRead (s : State) (t : TileNo) (k : Cmd) (sp : SrcSpace) (w : Word) (off : Int) (n : Nat) :
    Except Nat (List Byte × Bool) :=
  match sp with
  | .global =>
    let a : Int := w.toNat + off
    if a < 0 ∨ (2 : Int) ^ 52 < a + n then .error 5
    else match s.partOf t with
    | none => .error 7
    | some p => match s.srcGlobal t p (piecesOf a.toNat n) with
      | .error e => .error e
      | .ok r =>
        let x := s.ctxAt t k.ctx
        let bs := if x.runs k.tid then mergeHeld (x.holdBefore k.id) a.toNat r.1 else r.1
        .ok (readUnder k.under a.toNat bs, r.2)
  | .bay => match bayLoc t w with
    | none => .error 5
    | some (m, o) =>
      let b := (s.tile t).bay m
      let a : Int := o + off
      if a < 0 ∨ (b.len : Int) < a + n then .error 5
      else
        let o1 := b.start_ false + a.toNat
        .ok (readUnder k.underSp o1 ((s.tile t).readSp o1 n), anyPoison (s.tile t).spPoison o1 n)
  | .mram =>
    let a : Int := w.toNat + off
    if a < 0 ∨ (mramProg : Int) < a + n then .error 5
    else .ok (Mem.readBytes (s.tile t).mram a.toNat n,
      anyPoison (s.tile t).mramPoison a.toNat n || s.pkg.failed.contains (.mram t))

/-- Does a source touch a 4 KiB unit that a commit is applying (R224)? -/
def Tile.applying (x : Tile) (a n : Nat) : Bool :=
  match x.journal with
  | some j => j.committing.isSome && j.units.any fun u =>
      decide (u.1 / 4096 ≤ (a + n - 1) / 4096 ∧ a / 4096 ≤ (u.1 + u.2.length - 1) / 4096)
  | none => false

/-! ### Shapes (R213, R214) -/

structure Shape where
  d0 : Nat
  loops : List (Nat × Int × Int)
  deriving DecidableEq, Repr

/-- A signed 32-bit field of bytes. -/
def le32 (bs : List Byte) (o : Nat) : Int := (BitVec.ofNat 32 (leAt bs o 4)).toInt

/-- A shape record within its limits. -/
def parseShape (bs : List Byte) : Option Shape :=
  let loops := (List.range 5).map fun i => (leAt bs (4 + 2 * i) 2, le32 bs (16 + 4 * i), le32 bs (36 + 4 * i))
  if 1 ≤ leAt bs 0 4 ∧ leAt bs 0 4 ≤ 16777216 ∧ (loops.all fun l => l.1 != 0) ∧ zeroAt bs 14 2 ∧ zeroAt bs 56 8 then
    some ⟨leAt bs 0 4, loops⟩
  else none

/-- The offsets of a copy's runs in their order, the first loop innermost. -/
def odometer : List (Nat × Int × Int) → List (Int × Int)
  | [] => [(0, 0)]
  | l :: ls => (odometer ls).flatMap fun q => (List.range l.1).map fun (i : Nat) => (q.1 + i * l.2.1, q.2 + i * l.2.2)

/-- The shape of a copy. -/
def State.shapeOf (s : State) (t : TileNo) (k : Cmd) : Except Nat Shape :=
  match k.ins.ins with
  | .cpyi _ _ _ _ n => .ok ⟨n.toNat, []⟩
  | _ =>
    let a := k.ops[3]
    if a.toNat % 64 ≠ 0 then .error 6
    else match s.srcRead t k .global a 0 64 with
    | .error 5 => .error 7
    | .error e => .error e
    | .ok r => match parseShape r.1 with
      | some sh => .ok sh
      | none => .error 6

/-! ### Destinations (R184, R215, R218) -/

/-- The destination of a command that has one: its space and its locator. -/
def Cmd.dest (k : Cmd) : Option (DstSpace × Word) :=
  match k.ins.ins with
  | .cpy _ _ _ _ c => some (c.dsp, k.ops[2])
  | .cpyi _ _ _ c _ => some (c.dsp, k.ops[2])
  | .cpys _ _ _ _ c => some (c.dsp, k.ops[2])
  | .cpyb _ _ _ _ c => some (c.dsp, k.ops[2])
  | .snget _ _ _ _ _ _ dbay => some (if dbay then .bay else .global, k.ops[2])
  | .collAllreduce _ _ _ c _ => some (if c.dbay then .bay else .global, k.ops[2])
  | .collRedscat _ _ _ c _ => some (if c.dbay then .bay else .global, k.ops[2])
  | .collAllgath _ _ _ c _ => some (if c.dbay then .bay else .global, k.ops[2])
  | .collBcast _ _ _ _ c _ => some (if c.dbay then .bay else .global, k.ops[2])
  | _ => none

/-- The control of a copy. -/
def Cmd.ctl? (k : Cmd) : Option CopyCtl :=
  match k.ins.ins with
  | .cpy _ _ _ _ c => some c
  | .cpyi _ _ _ c _ => some c
  | .cpys _ _ _ _ c => some c
  | .cpyb _ _ _ _ c => some c
  | _ => none

/-- The publish group of a DEFER copy. -/
def Cmd.deferred (k : Cmd) : Option (Fin 16) :=
  match k.ins.ins with
  | .cpy _ _ _ _ c => c.defer
  | .cpyi _ _ _ c _ => c.defer
  | .cpys _ _ _ _ c => c.defer
  | .snget _ _ _ _ _ d _ => d
  | _ => none

/-- The source space of a command with a source of its own. -/
def Cmd.source (k : Cmd) : Option (SrcSpace × Word × Bool) :=
  match k.ins.ins with
  | .cpy _ _ _ _ c => some (c.ssp, k.ops[1], c.keep)
  | .cpyi _ _ _ c _ => some (c.ssp, k.ops[1], c.keep)
  | .cpys _ _ _ _ c => some (c.ssp, k.ops[1], c.keep)
  | .cpyb _ _ _ _ c => some (c.ssp, k.ops[1], c.keep)
  | .mwr _ _ _ _ sbay => some (if sbay then .bay else .global, k.ops[1], false)
  | .collAllreduce _ _ _ c _ => some (if c.sbay then .bay else .global, k.ops[1], false)
  | .collRedscat _ _ _ c _ => some (if c.sbay then .bay else .global, k.ops[1], false)
  | .collAllgath _ _ _ c _ => some (if c.sbay then .bay else .global, k.ops[1], false)
  | .collBcast _ _ _ _ c _ => some (if c.sbay then .bay else .global, k.ops[1], false)
  | _ => none

/-- Where bytes of a destination land: an address, an offset in the visible part that is written, or an
offset in the bank; none out of bounds. -/
def Tile.place (x : Tile) (t : TileNo) (sp : DstSpace) (w : Word) (off : Int) (n : Nat) : Option Nat :=
  match sp with
  | .global =>
    let a : Int := w.toNat + off
    if a < 0 ∨ (2 : Int) ^ 52 < a + n then none else some a.toNat
  | .bank =>
    let a : Int := (w.toNat % 0x8000 : Nat) + off
    if a < 0 ∨ (0x8000 : Int) < a + n then none else some a.toNat
  | .bay => match bayLoc t w with
    | none => none
    | some (m, o) =>
      let a : Int := o + off
      if a < 0 ∨ ((x.bay m).len : Int) < a + n then none else some a.toNat

/-- Where a run of a command's destination lands: within the issuing tile's bay where the command fills it; a CPYB whose
range leaves that tile out is bounded on each tile that it fills (R218). -/
def State.placeOf (s : State) (t : TileNo) (k : Cmd) (sp : DstSpace) (w : Word) (off : Int) (n : Nat) : Option Nat :=
  if k.tiles.isEmpty || k.tiles.contains t.val then (s.tile t).place t sp w off n
  else match bayLoc t w with
    | none => none
    | some (_, o) => if (o : Int) + off < 0 then none else some ((o : Int) + off).toNat

/-- The runs of a copy read from their source, each with its place; or the fault. -/
def State.gather (s : State) (t : TileNo) (k : Cmd) (ssp : SrcSpace) (sw : Word) (dsp : DstSpace) (dw : Word) (n : Nat) :
    List (Int × Int) → Except (Nat × Word) (List (Nat × List Byte) × Bool)
  | [] => .ok ([], false)
  | q :: qs => match s.srcRead t k ssp sw q.1 n with
    | .error e => .error (e, sw)
    | .ok r => match s.placeOf t k dsp dw q.2 n with
      | none => .error (5, dw)
      | some a => match s.gather t k ssp sw dsp dw n qs with
        | .error e => .error e
        | .ok g => .ok ((a, r.1) :: g.1, r.2 || g.2)

/-- A destination bay as a command starts on it: one without SHADOW goes to FILLING. -/
def Tile.fillStart (x : Tile) (n : BayNo) : Tile :=
  x.onBay n fun b => if b.shadow then b else { b with st := .filling }

/-- A source bay as a command starts on it. -/
def Tile.drainStart (x : Tile) (n : BayNo) : Tile := x.onBay n fun b => { b with st := .draining }

/-- Is a bay of another tile fit to receive a CPYB, as its copy starts (R183, R218): EMPTY, or READY under SHADOW with
no fill of its back half outstanding? -/
def State.receives (s : State) (u : TileNo) (n : BayNo) (need : Nat) : Bool :=
  let b := (s.tile u).bay n
  b.configured && !b.sync && decide (need ≤ b.len)
    && (if b.shadow then b.st == .ready && !s.filling u n else b.st == .empty)

/-- The furthest byte of places. -/
def reachOf (buf : List (Nat × List Byte)) : Nat := buf.foldl (fun m q => max m (q.1 + q.2.length)) 0

/-- The tiles other than the issuing one that a CPYB writes. -/
def otherTiles (t : TileNo) (ts : List Nat) : List TileNo := (ts.filterMap tileOf).filter fun u => u != t

/-- Are all tiles of a list in a partition? -/
def State.inPart (s : State) (p : PartNo) (ts : List Nat) : Bool :=
  ts.all fun n => match tileOf n with
    | some u => s.partOf u == some p
    | none => false

/-- The bytes a clock at L7 that a copy or an SNGET moves at most (R342); `none` is a command without a rate of its own. -/
def Cmd.rate (k : Cmd) : Option Nat :=
  match k.ins.ins with
  | .snget _ _ _ _ _ _ dbay => some (if dbay then 256 else 128)
  | _ => k.ctl?.map fun c => match c.ssp, c.dsp with
    | _, .bank => 64
    | .bay, .bay => if k.tiles.isEmpty then 1024 else 256
    | .global, .global => 128
    | _, _ => 256

/-- The path that a copy or an SNGET shares with the tile's other commands (R331, R342). -/
def Cmd.path (k : Cmd) : Option Path :=
  match k.ins.ins with
  | .snget .. => some .glob
  | _ => k.ctl?.bind fun c => match c.ssp, c.dsp with
    | .mram, _ => some .mram
    | .global, _ => some .glob
    | .bay, .global => some .glob
    | _, _ => none

/-- The least tick of a command's last source read, and the tile with its path in use until then: its first byte moves 120
clocks after its issue, and its bytes follow at its rate. -/
def Tile.moveEnd (x : Tile) (k : Cmd) (now n : Nat) : Nat × Tile :=
  match k.rate with
  | none => (now, x)
  | some r =>
    let first := max now (k.born + 210 * 120)
    match k.path with
    | none => (first + transfer n r, x)
    | some p =>
      let start := max first (x.pathFree p)
      (start + transfer n r, x.usePath p (start + transfer n (Path.rate p)))

/-- The bytes that a buffer holds. -/
def bufBytes (buf : List (Nat × List Byte)) : Nat := (buf.map (·.2.length)).sum

/-- The global ranges that a copy, an MWR or a COLL reads, as its start fixes them. -/
def State.startRanges (s : State) (t : TileNo) (k : Cmd) (n : Nat) : List (Nat × Nat) :=
  match k.source, k.ctl? with
  | some (.global, w, _), none => [(w.toNat, n)]
  | some (.global, w, _), some _ => match s.shapeOf t k with
    | .ok sh => (odometer sh.loops).map fun q => (((w.toNat : Int) + q.1).toNat, sh.d0)
    | .error _ => []
  | _, _ => []

/-- Bytes from `a` on cut at the 256-byte units of their destination. -/
def cutUnits : Nat → Nat → List Byte → List (Nat × List Byte)
  | 0, _, _ => []
  | _ + 1, _, [] => []
  | fuel + 1, a, bs =>
    let n := 256 - a % 256
    (a, bs.take n) :: cutUnits fuel (a + n) (bs.drop n)

/-- The units of what a command moves (R395). -/
def bufUnits (buf : List (Nat × List Byte)) : List (Nat × List Byte) :=
  buf.flatMap fun q => cutUnits (q.2.length / 256 + 2) q.1 q.2

/-- The CRC32C of each of them. -/
def sumsOf (buf : List (Nat × List Byte)) : List (BitVec 32) := (bufUnits buf).map fun u => crc32c u.2

/-- A command that has gathered its bytes starts: its bays move, and its last source read follows. The check of each
unit is computed while the unit is still under its source's (R395). -/
def State.launchCmd (s : State) (t : TileNo) (k : Cmd) (buf : List (Nat × List Byte)) (poison : Bool) : State :=
  let x := s.tile t
  let s1 := s.onTile t fun y =>
    let x1 := match k.srcBay with
      | some n => y.drainStart n
      | none => y
    let x2 := match k.dstBay with
      | some n => if k.fills t n then x1.fillStart n else x1
      | none => x1
    x2.onCmd k.id fun k => { k with
      stat := .started, buf := buf, sums := sumsOf buf, poison := poison, srcs := s.startRanges t k (bufBytes buf), landed := 0,
      srcPrior := (k.srcBay.map fun n => (x.bay n).st).getD .ready,
      dstPrior := (k.dstBay.map fun n => (x.bay n).st).getD .empty }
  let q := (s1.tile t).moveEnd k s.now (bufBytes buf)
  let lead := q.1 - s.now
  ((s1.setTile t q.2).sched lead (lead + nanos engineNs) (orderKey t k.ctx) (.lastSourceRead t k.id)).wakeEngines t

/-- A command looks again later whether it may start; its context's later steps on the same object stay behind it
(R239, R270). -/
def State.retryStart (s : State) (t : TileNo) (k : Cmd) : State :=
  s.drew.postpone (s.now + s.delay (nanos 1) (nanos engineNs)) (orderKey t k.ctx) (.copyStart t k.id)

/-- A bank that a copy may not write: a task's PC names it, or another task has reserved it (R215). -/
def Tile.bankInUse (x : Tile) (tid : Nat) (n : Fin 2) : Bool :=
  (x.ctxs.toList.any fun c => c.run != .free && c.bank == n) || (x.banks[n]).resv.any fun r => r.1 != tid

/-- Bank In Use: the copy's reservation ends with it; one that another copy of its task made stands. -/
def State.bankBusy (s : State) (t : TileNo) (k : Cmd) (w : Word) : State :=
  let n := locBank w
  let s1 := s.onTile t fun x =>
    { x with banks := x.banks.set n { x.banks[n] with resv := x.banks[n].resv.filter (· != (k.tid, k.id)) } }
  s1.faultCmd t k.id 8 w

/-- The source's touch of units a commit applies. -/
def Tile.mramWait (x : Tile) (sp : SrcSpace) (w : Word) (offs : List Int) (n : Nat) : Bool :=
  sp == .mram && offs.any fun o => x.applying ((w.toNat : Int) + o).toNat n

/-- Bytes of bays that a command reads expose their writers (R320). -/
def State.exposeSource (s : State) (t : TileNo) (k : Cmd) : State :=
  match k.srcBay with
  | some n =>
    let b := (s.tile t).bay n
    s.readExposes t (some k.ctx) (b.start_ false) b.len
  | none => s

/-- A copy starts (R213 to R218). -/
def State.startCopy (s : State) (t : TileNo) (p : PartNo) (k : Cmd) (ctl : CopyCtl) : State :=
  let dw := k.ops[2]
  if (ctl.bin ∨ ctl.bout) ∧ k.bar.isNone then s.retryStart t k
  else if !s.inPart p k.tiles then s.faultCmd t k.id 10 k.ops[0]
  else if ctl.dsp = .bank ∧ (s.tile t).bankInUse k.tid (locBank dw) then s.bankBusy t k dw
  else match s.shapeOf t k with
  | .error e => s.faultCmd t k.id e k.ops[3]
  | .ok sh =>
    let offs := odometer sh.loops
    if (s.tile t).mramWait ctl.ssp k.ops[1] (offs.map (·.1)) sh.d0 then s.retryStart t k
    else
      let s0 := s.exposeSource t k
      match s0.gather t k ctl.ssp k.ops[1] ctl.dsp dw sh.d0 offs with
      | .error e => s0.faultCmd t k.id e.1 e.2
      | .ok g =>
        let us := otherTiles t k.tiles
        if us.any s0.asleep then (us.foldl (fun (s : State) u => s.wake u) s0).retryStart t k
        else if us.any fun u => match k.dstBay with
          | some n => !s0.receives u n (reachOf g.1)
          | none => false then s0.faultCmd t k.id 5 dw
        else
          let s1 := match k.dstBay with
            | some n => us.foldl (fun (s : State) u => s.onTile u fun x => x.fillStart n) s0
            | none => s0
          let crc := match k.ins.ins with
            | .cpys .. => crc32c (g.1.flatMap (·.2))
            | _ => 0
          let bad := match k.ins.ins with
            | .cpys .. => crc != k.ops[0].extractLsb' 0 32
            | _ => false
          (s1.launchCmd t k g.1 g.2).onTile t fun x => x.onCmd k.id fun k => { k with crc := crc, crcBad := bad }
/-- The last source read (R184, R216), at which an engine is free again: the source bay is EMPTY, or READY under KEEP,
and OUT falls. -/
def State.sourceRead (s : State) (t : TileNo) (p : PartNo) (k : Cmd) : State :=
  let keep := (k.source.map fun q => q.2.2).getD false
  let free := fun (b : Bay) =>
    if b.st = BayState.draining then { b with st := if keep || b.keep then .ready else .empty } else b
  let s1 := s.onTile t fun x =>
    (match k.srcBay with
      | some n => x.onBay n free
      | none => x).onCmd k.id fun k => { k with stat := .read, out := false }
  (match k.bar with
  | some r => if k.out then s1.lowerBar p r false true else s1
  | none => s1).wakeEngines t

/-- A cluster line's bytes overwritten at a publish, clean now. -/
def CLine.patch (l : CLine) (m : BitVec 256) (new : BitVec 2048) : CLine :=
  { l with data := merge8 m l.data new, dirty := l.dirty &&& ~~~m, bad := mergeBad m l.bad 0 }

/-- Stores that other tiles of the partition made to bytes of a line, still dirty in their L1, are lost: those lines go,
their other dirty bytes home (R214, R294). -/
def State.loseStores (s : State) (t : TileNo) (p : PartNo) (key : Nat) (m : BitVec 256) : State :=
  (s.tilesOf p).foldl (fun s u => match s.line? u key with
    | some l => if u ≠ t ∧ l.anyDirty &&& m ≠ 0 then s.evictLine u key else s
    | none => s) s

/-- A held store without the bytes that a publish overwrites: what is left of it, in pieces. -/
def Hold.cut (h : Hold) (a n : Nat) : List Hold :=
  match h.kind with
  | .store id ea bs true =>
    if meets (ea, bs.length) (a, n) then
      (if ea < a then [{ h with kind := .store id ea (bs.take (a - ea)) true }] else [])
        ++ (if a + n < ea + bs.length then [{ h with entries := 0, kind := .store id (a + n) (bs.drop (a + n - ea)) true }] else [])
    else [h]
  | _ => [h]

/-- Stores of a partition that have passed translation and are still held are lost where a publish overwrites them (R214,
R294). -/
def State.cutHolds (s : State) (p : PartNo) (a n : Nat) : State :=
  (s.tilesOf p).foldl (fun s t => allCtxs.foldl (fun s c =>
    if (s.ctxAt t c).hold.isEmpty then s
    else s.onCtx t c fun x => { x with hold := x.hold.flatMap fun h => h.cut a n }) s) s

/-- Global bytes written by an engine at their homes; the issuing tile's L1 lines that overlap are
dropped, dirty bytes of any context in the destination included (R214, R293), while dirty bytes beside it go home
(R281, log 39); no cluster cache keeps older bytes. -/
def State.engineStore (s : State) (t : TileNo) (p : PartNo) (a : Nat) (bs : List Byte) : State :=
  (piecesOf a bs.length).foldl (fun s q => match s.translate p q.1 true with
    | .error _ => s
    | .ok h =>
      let s := s.cutHolds p q.1 q.2
      let cs := (bs.drop (q.1 - a)).take q.2
      let key := lineKey p q.1
      let m := byteMask (q.1 % 256) q.2
      let s1 := ((s.evictLine t key).loseStores t p key m).homeWrite h cs
      (List.finRange 40).foldl (fun s k => match s.cline? k key with
        | some l => s.setCline k key (l.patch m (BitVec.ofNat 2048 (natOfBytes cs * 2 ^ (8 * (q.1 % 256)))))
        | none => s) s1) s

/-- Why a global destination takes nothing: a page that does not translate for a store, or a peer out of
reach. -/
def State.storeErr (s : State) (p : PartNo) (buf : List (Nat × List Byte)) : Option Nat :=
  let rs := buf.flatMap fun q => (piecesOf q.1 q.2.length).map fun w => s.translate p w.1 true
  if rs.any fun r => match r with
    | .error _ => true
    | .ok _ => false then some 7
  else if rs.any fun r => match r with
    | .ok h => s.lost h
    | .error _ => false then some 19
  else none

/-- A bay of a tile written and published: FILLING to READY, or the FRONT flip. -/
def State.publishBay (s : State) (t : TileNo) (n : BayNo) (buf : List (Nat × List Byte)) : State :=
  let b := (s.tile t).bay n
  let s1 := buf.foldl (fun s q => s.engineWriteSp t (b.start_ b.shadow + q.1) q.2) s
  s1.onTile t fun x => x.onBay n fun b => if b.shadow then { b with front := !b.front } else { b with st := .ready }

/-- The tiles whose bay a command publishes. -/
def Cmd.targets (k : Cmd) (t : TileNo) : List TileNo :=
  match k.dest with
  | some (.bay, _) => if k.tiles.isEmpty then [t] else k.tiles.filterMap tileOf
  | _ => []

/-- A command's destination published whole; or the fault that keeps it from it. -/
def State.publish (s : State) (t : TileNo) (p : PartNo) (k : Cmd) : Except Nat State :=
  match k.dest with
  | none => .ok s
  | some (.global, _) => match s.storeErr p k.buf with
    | some e => .error e
    | none => .ok (k.buf.foldl (fun s q => s.engineStore t p q.1 q.2) s)
  | some (.bank, w) =>
    let n := locBank w
    .ok (s.onTile t fun x =>
      let b := x.banks[n]
      { x with banks := x.banks.set n { b with
          mem := k.buf.foldl (fun m q => Mem.writeBytes m q.1 q.2) b.mem, image := none } })
  | some (.bay, _) => match k.dstBay with
    | none => .ok s
    | some n => .ok ((k.targets t).foldl (fun (s : State) u => s.publishBay u n k.buf) s)

/-- The task that issued a command is poisoned, or where it has ended its partition is reset (R323, R331). -/
def State.poisonOwner (s : State) (t : TileNo) (p : PartNo) (k : Cmd) : State :=
  s.poisonTid t k.ctx k.tid p

/-- IN falls with the publish (R216). -/
def State.lowerIn (s : State) (t : TileNo) (p : PartNo) (k : Cmd) : State :=
  match k.bar with
  | some r =>
    if k.inn then (s.onTile t fun x => x.onCmd k.id fun k => { k with inn := false }).lowerBar p r true false else s
  | none => s

/-- 64-byte units of a command's destination poisoned (R331, R337, R394); an instruction bank holds no poison. -/
def State.poisonDest (s : State) (t : TileNo) (p : PartNo) (k : Cmd) (a n : Nat) : State :=
  match k.dest with
  | some (.global, _) => (unitsOf a n).foldl (fun s u => match s.translate p (u * 64) true with
    | .ok h => (s.dropCopies p (u * 64)).poisonHome h
    | .error _ => s) s
  | some (.bay, _) => match k.dstBay with
    | some m => (k.targets t).foldl (fun (s : State) v =>
        let b := (s.tile v).bay m
        s.onTile v fun x => { x with spPoison := (unitsOf (b.start_ b.shadow + a) n).foldl markRegion x.spPoison }) s
    | none => s
  | _ => s

/-- A unit that an engine moves with a bit changed after its source's code was dropped, which the check of R395 finds. -/
def corruptUnit (i : Nat) (buf : List (Nat × List Byte)) : List (Nat × List Byte) :=
  (bufUnits buf).zipIdx.map fun q => (q.1.1, if q.2 = i then q.1.2.modifyHead (· ^^^ 1) else q.1.2)

/-- Do the units that a command has written differ from the checks computed over them (R395)? -/
def Cmd.corrupt (k : Cmd) : Bool := sumsOf k.buf != k.sums

/-- A unit that fails its check as written (R395): an uncorrectable error at the destination, which is counted and
poisons its units there, where it has one in memory or a bay: the units of an MWR do not join the journal, and a panel of a
CFEED is not pushed; the command publishes nothing and ends with CODE FAULTED and no record, of which R312 has none
for it (DESIGN CHOICE, log 88). -/
def State.unitError (s : State) (t : TileNo) (p : PartNo) (k : Cmd) : State :=
  let bad := ((bufUnits k.buf).zip k.sums).filter fun q => crc32c q.1.2 != q.2
  ((bad.foldl (fun s q => s.poisonDest t p k q.1.1 q.1.2.length) s).countErr p 1).stopCmd t k.id 3

/-- A command publishes and ends (R215, R217). -/
def State.publishCmd (s : State) (t : TileNo) (p : PartNo) (k : Cmd) : State :=
  if k.poison then s.poisonOwner t p k
  else if k.corrupt then s.unitError t p k
  else match s.publish t p k with
  | .error e => s.faultCmd t k.id e k.ops[2]
  | .ok s1 => (s1.lowerIn t p k).endCmd t k.id (if k.crcBad then 1 else 0) k.crc

/-- When a publish that arrives now at a tile's scratchpad is applied: in the order of R291, and once the tile is
awake. -/
def State.landTick (s : State) (u : TileNo) : Nat := if s.asleep u then s.wakeTick u else s.spTick u

/-- A publish as its bytes arrive: each tile's bay publishes on its own tile (R218) in that tile's order (R291), and the
command ends with the last of them. One with a global destination waits for a flip (R299). -/
def State.publishWhen (s : State) (t : TileNo) (p : PartNo) (k : Cmd) : State :=
  if k.poison ∨ k.corrupt then s.publishCmd t p k
  else if (k.dest.map (·.1)) = some .global ∧ s.anyFlip t then
    s.sched (nanos 1) (nanos engineNs) (orderKey t k.ctx) (.copyPublish t k.id)
  else
    let s0 := (k.targets t).foldl (fun (s : State) u => if s.asleep u then s.wake u else s) s
    let later := (k.targets t).filter fun u => decide (s0.now < s0.landTick u)
    match later, k.dstBay with
    | u :: us, some n =>
      let ready := (k.targets t).filter fun u => !later.contains u
      let s1 := ready.foldl (fun (s : State) u => s.publishBay u n k.buf) s0
      (s1.onTile t fun x => x.onCmd k.id fun k => { k with
        tiles := if k.tiles.isEmpty then [] else later.map (·.val) }).schedAt
          (us.foldl (fun m v => min m (s0.landTick v)) (s0.landTick u)) (orderKey t k.ctx) (.copyPublish t k.id)
    | _, _ => s0.publishCmd t p k

/-- A CPYS whose CRC differs leaves a bay or global destination as it was. Its bays return to their state before it,
as those of a copy that faults do (DESIGN CHOICE, log 89: R184 names aborted and faulted copies alone). -/
def State.mismatch (s : State) (t : TileNo) (k : Cmd) : State :=
  (s.onTile t fun x => match k.dstBay with
    | some n => x.onBay n fun b => if b.st = .filling then { b with st := k.dstPrior } else b
    | none => x).endCmd t k.id 1 k.crc

/-- A DEFER copy is complete: it leaves CP and waits for its PUB; one whose global destination takes nothing faults. -/
def State.deferCmd (s : State) (t : TileNo) (p : PartNo) (k : Cmd) : State :=
  match k.dest, s.storeErr p k.buf with
  | some (.global, _), some e => s.faultCmd t k.id e k.ops[2]
  | _, _ =>
  ((((s.dropTransient t k).setStatus t k (statusWord 0 k.crc)).dropCp t k.ctx k.tid).onTile t fun x =>
    x.onCmd k.id fun k => { k with stat := .complete }).wakePubs t

/-- A copy has all its bytes: it publishes, waits for its PUB, or ends on a CRC that differs. -/
def State.finishCopy (s : State) (t : TileNo) (p : PartNo) (k : Cmd) : State :=
  let bank := match k.dest with
    | some (.bank, _) => true
    | _ => false
  if k.crcBad && !bank then s.mismatch t k
  else if k.deferred.isSome then (if k.corrupt then s.unitError t p k else s.deferCmd t p k)
  else s.publishWhen t p k

/-! ### PUB (R219) -/

/-- The DEFER copies a PUB covers. -/
def Tile.covered (x : Tile) (k : Cmd) (mask : BitVec 16) : List Nat :=
  (x.cmds.filter fun m => m.ctx == k.ctx && m.tid == k.tid && decide (m.id < k.id) && match m.deferred with
    | some g => mask.getLsbD g.val
    | none => false).map (·.id)

/-- A PUB starts: what it covers is fixed. -/
def State.startPub (s : State) (t : TileNo) (k : Cmd) (mask : BitVec 16) : State :=
  let ids := (s.tile t).covered k mask
  (s.onTile t fun x => x.onCmd k.id fun k => { k with stat := .started, cover := ids }).schedAt s.now
    (orderKey t k.ctx) (.copyPublish t k.id)

/-! ### Copies into a bank (R215, R342) -/

/-- `n` bytes of a buffer from its byte `lo` on, with the rest of the 32-bit word that the last of them lies in: a word lands
whole (R107, R215). -/
def bufPart : List (Nat × List Byte) → Nat → Nat → List (Nat × List Byte)
  | [], _, _ => []
  | q :: qs, lo, n =>
    if q.2.length ≤ lo then bufPart qs (lo - q.2.length) n
    else if n = 0 then []
    else
      let cs := (q.2.drop lo).take (n + (4 - (q.1 + lo + n) % 4) % 4)
      (q.1 + lo, cs) :: bufPart qs 0 (n - cs.length)

/-- Words of a copy into a bank as they land in place: from its 120th clock on at most 64 bytes in a clock, and how many the
load on the engine leaves open (R342, log 16). -/
def State.landWords (s : State) (t : TileNo) (k : Cmd) (w : Word) : State :=
  let ws := bufPart k.buf k.landed (4 * s.delay 0 16)
  s.drew.onTile t fun x =>
    let b := x.banks[locBank w]
    { x with banks := x.banks.set (locBank w) { b with
      mem := ws.foldl (fun (m : Mem) (q : Nat × List Byte) => Mem.writeBytes m q.1 q.2) b.mem, image := none } }.onCmd k.id fun k =>
        { k with landed := k.landed + bufBytes ws }

/-- The copies into the banks of a tile that have started move on by a clock. -/
def State.landBanks (s : State) (t : TileNo) : State :=
  (s.tile t).cmds.foldl (fun s k => match k.dest with
    | some (.bank, w) =>
      if k.moving ∧ k.born + 210 * 120 ≤ s.now ∧ k.landed < bufBytes k.buf then s.landWords t k w else s
    | _ => s) s

/-- A PUB publishes in one step what it covers, once all of that is complete; what faulted, was aborted or
differed is left out. -/
def State.finishPub (s : State) (t : TileNo) (p : PartNo) (k : Cmd) : State :=
  let ks := (s.tile t).cmds.filter fun m => k.cover.contains m.id
  if ks.any fun m => m.stat != .complete then s
  else if s.anyFlip t then s.sched (nanos 1) (nanos engineNs) (orderKey t k.ctx) (.copyPublish t k.id)
  else (ks.foldl (fun s m => s.publishCmd t p m) s).endCmd t k.id 0 0

/-! ### CFEED (R167, R168, R222) -/

/-- Do two feeds push into one stream? -/
def Feed.same : Feed → Feed → Bool
  | .af _, .af _ => true
  | .bf _, .bf _ => true
  | .mq, .mq => true
  | _, _ => false

/-- Has a stream a free entry: available and reserved entries are fewer than 32 (R168)? -/
def Ctx.room (x : Ctx) (f : Feed) : Bool :=
  match f with
  | .af _ => decide (x.af.length + (x.mops.map (·.af.length)).sum < 32)
  | .bf _ => decide (x.bf.length + (x.mops.map (·.bf.length)).sum < 32)
  | .mq => decide (x.mq.length + (x.mops.map (·.mq.length)).sum < 32)

/-- A panel pushed; a context whose task has ended keeps none (R117). -/
def Ctx.push (x : Ctx) (f : Feed) (bs : List Byte) (poison : Bool) : Ctx :=
  if x.run = .winding then x
  else match f with
  | .af ty => { x with af := x.af ++ [⟨ty, BitVec.ofNat 32768 (natOfBytes bs), poison⟩] }
  | .bf ty => { x with bf := x.bf ++ [⟨ty, BitVec.ofNat 32768 (natOfBytes bs), poison⟩] }
  | .mq => { x with mq := x.mq ++ [⟨BitVec.ofNat 2048 (natOfBytes bs), poison⟩] }

/-- Is an earlier CFEED of the context into the same stream outstanding? -/
def Tile.feedBehind (x : Tile) (k : Cmd) (f : Feed) : Bool :=
  x.cmds.any fun m => m.ctx == k.ctx && m.tid == k.tid && decide (m.id < k.id) && match m.ins.ins with
    | .cfeed _ _ _ g _ => Feed.same f g
    | _ => false

/-- CFEED_PANEL_AVAILABLE: a feed's next panel is pushed, where its stream has room and no earlier feed
stands before it; a panel of global memory waits for the context's earlier stores (R293) and for a flip (R299). A feed
that meets a fault stops at that panel, as does one whose panel fails its check as pushed (R395). -/
def execCfeedPanelAvailable (t : TileNo) (id : Nat) (s : State) : Out :=
  match (s.tile t).cmd? id with
  | none => .next s
  | some k => match k.ins.ins with
    | .cfeed _ _ _ f ssp =>
      let x := s.ctxAt t k.ctx
      let off : Int := k.prog * k.ops[2].toInt
      if (s.tile t).feedBehind k f || !(x.room f || x.run == .winding)
          || (s.tile t).mramWait ssp k.ops[1] [off] (Feed.bytes f)
          || (ssp == .global && (x.storeBefore k.id || s.anyFlip t)) then .next s
      else
        let s0 := s.exposeSource t k
        match s0.srcRead t k ssp k.ops[1] off (Feed.bytes f) with
        | .error e => .next (s0.faultCmd t id e k.ops[1])
        | .ok r =>
          let moved := if k.crcBad then corruptUnit 0 [(0, r.1)] else [(0, r.1)]
          let s1 := (s0.onCtx t k.ctx fun x => x.push f r.1 r.2).onTile t fun x =>
            x.onCmd id fun k => { k with prog := k.prog + 1 }
          if sumsOf moved ≠ sumsOf [(0, r.1)] then match s0.partOf t with
            | some p => .next (s0.unitError t p k)
            | none => .next s0
          else if k.ops[0].toNat ≤ k.prog + 1 then .next (s1.endCmd t id 0 0)
          else .next (s1.feedNext t k f ssp 0)
    | _ => .next s

/-! ### TILEWK, TILEOFF, EVPOST (R226, R227) -/

/-- A TILEWK or TILEOFF ends when no tile is left that it waits for. -/
def State.finishTiles (s : State) (t : TileNo) (k : Cmd) : State :=
  if k.tiles.isEmpty then s.endCmd t k.id 0 0 else s

/-- A TILEWK or TILEOFF has started, and waits for tiles. -/
def State.awaitTiles (s : State) (t : TileNo) (k : Cmd) (ts : List TileNo) : State :=
  let k1 := { k with stat := .started, tiles := ts.map (·.val) }
  (s.onTile t fun x => x.onCmd k.id fun _ => k1).finishTiles t k1

/-- TILEWK starts: it waits for every named tile that is not in RUN, but for those quarantined, which it leaves as they are
(R388; log 91). The hold is counted from the start of the command at the Bell (DESIGN CHOICE, log 91). -/
def State.startWake (s : State) (t : TileNo) (p : PartNo) (k : Cmd) (hold : BitVec 16) : State :=
  if !s.inPart p k.tiles then s.faultCmd t k.id 10 k.ops[1]
  else
    let till := s.now + nanos (1000 * hold.toNat)
    let us := (k.tiles.filterMap tileOf).filter fun u => !(s.tile u).quarantined
    let s1 := us.foldl (fun s u =>
      ((s.onTile u fun x => { x with holdUntil := max x.holdUntil till }).schedAt till (orderKey u 0)
        (.tilewkHoldExpiry u)).wake u) s
    s1.awaitTiles t k (us.filter fun u => (s1.tile u).power != .run)

/-- TILEOFF starts: it is done when the last tile that powers off for it is off. -/
def State.startOff (s : State) (t : TileNo) (p : PartNo) (k : Cmd) : State :=
  if !s.inPart p k.tiles then s.faultCmd t k.id 10 k.ops[1]
  else
    let us := k.tiles.filterMap tileOf
    let s1 := us.foldl (fun s u => s.offNow u) s
    s1.awaitTiles t k (us.filter fun u => match (s1.tile u).power with
      | .goingOff _ => true
      | _ => false)

def State.startEvent (s : State) (t : TileNo) (p : PartNo) (k : Cmd) (ev : BitVec 12) : State :=
  ((s.handOff t k.ctx .dev).postPart p ev.toNat k.ops[1] false k.ctxid.toNat 0).endCmd t k.id 0 0

/-! ### Meanings -/

def execCpy (b sr d rr : XReg) (ctl : CopyCtl) (s : State) : Out :=
  s.conclude (.cpy b sr d rr ctl) (issueCpy b sr d rr ctl s)
def execCpyi (b sr d : XReg) (ctl : CopyCtl) (n : BitVec 32) (s : State) : Out :=
  s.conclude (.cpyi b sr d ctl n) (issueCpyi b sr d ctl n s)
def execCfeed (n sr p : XReg) (f : Feed) (ssp : SrcSpace) (s : State) : Out :=
  s.conclude (.cfeed n sr p f ssp) (issueCfeed n sr p f ssp s)
def execPub (mask : BitVec 16) (s : State) : Out := s.conclude (.pub mask) (issuePub mask s)
def execCstat (d : XReg) (n : SlotNo) (s : State) : Out := s.conclude (.cstat d n) (issueCstat d n s)
def execCabrt (sel : AbortSel) (s : State) : Out := s.conclude (.cabrt sel) (issueCabrt sel s)
def execTilewk (a : XReg) (hold : BitVec 16) (s : State) : Out :=
  s.conclude (.tilewk a hold) (issueTilewk a hold s)
def execTileoff (a : XReg) (s : State) : Out := s.conclude (.tileoff a) (issueTileoff a s)
def execEvpost (a : XReg) (ev : BitVec 12) (s : State) : Out := s.conclude (.evpost a ev) (issueEvpost a ev s)
def execCpys (e sr d rr : XReg) (ctl : CopyCtl) (s : State) : Out :=
  s.conclude (.cpys e sr d rr ctl) (issueCpys e sr d rr ctl s)
def execCpyb (m sr d rr : XReg) (ctl : CopyCtl) (s : State) : Out :=
  s.conclude (.cpyb m sr d rr ctl) (issueCpyb m sr d rr ctl s)

end Sys2Proof.Machine
end

