-- ==== Sys2Proof/Machine/Journal.lean ====
section
/-! DEFINITION. The MRAM journal (R223 to R225, R330 to R332). -/

namespace Sys2Proof.Machine

/-! ### Issue -/

def issueMwr (sr m n : XReg) (slot : Option SlotNo) (sbay : Bool) (s : State) : Issue :=
  let xm := (s.x m).toNat
  let xn := (s.x n).toNat
  .check (xm % 64 == 0 && xn % 64 == 0 && decide (xm + xn ≤ mramProg)) .illegalOperand
    (both (s.srcCheck (if sbay then .bay else .global) (s.x sr) passed) passed
      (.ok fun r =>
        let k := { r.newCmd s (.mwr sr m n slot sbay) (four 0 (s.x sr) (s.x m) (s.x n)) slot with
          srcBay := s.locBay sbay (s.x sr) }
        (r.holdCmd s k).map fun r => if sbay then r else r.setNres))

def issueMcmt (n : SlotNo) (s : State) : Issue :=
  .ok fun r => r.holdCmd s (r.newCmd s (.mcmt n) (four 0 0 0 0) (some n))

def issueMabt (n : SlotNo) (s : State) : Issue :=
  .ok fun r => r.holdCmd s (r.newCmd s (.mabt n) (four 0 0 0 0) (some n))

/-- The wear counters of a 4 KiB unit: writes and retries. -/
def Tile.wearOf (x : Tile) (unit : Nat) : Nat × Nat := Map.getD x.wear unit (0, 0)

def issueMwear (d m : XReg) (kind : Bool) (s : State) : Issue :=
  let a := (s.x m).toNat
  let w := (s.tile s.curTile).wearOf (a / 4096)
  .check (decide (a < mramSize)) .illegalOperand
    (.done fun r => r.flyX 32 d (BitVec.ofNat 64 (if kind then w.2 else w.1)))

/-! ### The transaction (R223, R224) -/

/-- Is a command one of the journal's? -/
def Cmd.ofJournal (k : Cmd) : Bool :=
  match k.ins.ins with
  | .mwr .. => true
  | _ => k.journals

/-- Journal commands of a context join its transaction in issue order: an MCMT or MABT comes after every
earlier one, an MWR after every earlier MCMT or MABT. -/
def Tile.journalBehind (x : Tile) (k : Cmd) : Bool :=
  x.cmds.any fun m => m.ctx == k.ctx && decide (m.id < k.id) && m.ofJournal && (k.journals || m.journals)

/-- The journal as a command of a context finds it: busy with another's transaction, its commit included (R223, R224);
a commit of the context's own or an earlier command to wait for; or open to it. -/
inductive JView | busy | wait | open (j : Option Journal)

def Tile.journalFor (x : Tile) (k : Cmd) : JView :=
  match x.journal with
  | some j =>
    if j.owner ≠ k.ctx then .busy
    else if j.committing.isSome || x.journalBehind k then .wait
    else .open (some j)
  | none => if x.journalBehind k then .wait else .open none

/-- MWR starts: it reads its source, of which one of no bytes has none, and opens a transaction where none is open. A first
MWR that faults at its source opens none (DESIGN CHOICE, log 98). -/
def State.startMwr (s : State) (t : TileNo) (k : Cmd) (sbay : Bool) : State :=
  match (s.tile t).journalFor k with
  | .busy => s.faultCmd t k.id 11 k.ops[2]
  | .wait => s.retryStart t k
  | .open j =>
    let s0 := s.exposeSource t k
    match (if k.ops[3] = 0 then .ok ([], false) else s0.srcRead t k (if sbay then .bay else .global) k.ops[1] 0 k.ops[3].toNat) with
    | .error e => s0.faultCmd t k.id e k.ops[1]
    | .ok r =>
      let s1 := if j.isSome then s0 else s0.onTile t fun x => { x with journal := some ⟨k.ctx, [], 0, 0, none⟩ }
      s1.launchCmd t k [(k.ops[2].toNat, r.1)] r.2

/-- Does a transaction take more bytes: its code so far, JOURNAL_FULL past 4 MiB, or WRITE_FAIL where the
journal's own check fails after three rewrites, which is free (log 4)? An MWR of no bytes completes OK (R223). -/
def Journal.codeWith (j : Journal) (n : Nat) (bad : Bool) : Nat :=
  if n = 0 then 0 else if j.fail ≠ 0 then j.fail else if 4194304 < j.bytes + n then 4 else if bad then 5 else 0

/-- JOURNAL_WRITE_COMPLETE: the units of an MWR have joined the transaction, or it failed. One whose transaction the CABRT of
another MWR of its context has discarded ends ABORTED (DESIGN CHOICE, log 98). -/
def execJournalWriteComplete (t : TileNo) (id : Nat) (s : State) : Out :=
  let x := s.tile t
  match x.cmd? id, s.partOf t with
  | some k, some p => match k.ins.ins, x.journal with
    | .mwr .., some j =>
      if k.stat ≠ .read then .next s
      else if j.owner ≠ k.ctx then .next (s.endCmd t id 2 0)
      else if k.poison then .next (s.poisonOwner t p k)
      else if k.corrupt then .next (s.unitError t p k)
      else
        let n := (k.buf.map fun q => q.2.length).sum
        let code := j.codeWith n ((s.free 1).getLsbD 0)
        let j1 := if n = 0 then j else if code = 0 then { j with units := j.units ++ k.buf, bytes := j.bytes + n }
          else { j with fail := code }
        .next ((s.drew.onTile t fun x => { x with journal := some j1 }).endCmd t id code 0)
    | .mwr .., none => if k.stat = .read then .next (s.endCmd t id 2 0) else .next s
    | _, _ => .next s
  | _, _ => .next s

/-! ### Commit and apply (R224, R332) -/

/-- The 64-byte units of a transaction in ascending order, the later data of an offset last. -/
def Journal.cells (j : Journal) : List (Nat × List Byte) :=
  let us := j.units.flatMap fun q =>
    (List.range (q.2.length / 64)).map fun i => (q.1 + 64 * i, (q.2.drop (64 * i)).take 64)
  (us.foldl (fun (m : Map (List Byte)) u => Map.set m u.1 u.2) [])

/-- The rewrites of a unit's write at its home: 0 to 3, or past that a failed check; they are free. -/
def rewrites (ctr i : Nat) : Nat := (Config.freeBits 3 (ctr + i)).toNat

/-- A unit applied: wear counted, a unit that fails retired to a spare, and WRITE_FAIL where none is left. -/
def Tile.applyUnit (x : Tile) (a : Nat) (bs : List Byte) (r : Nat) : Tile × Bool :=
  let u := a / 4096
  let w := x.wearOf u
  let y := { x with wear := Map.set x.wear u (min (w.1 + 1) (2 ^ 40 - 1), min (w.2 + min r 3) (2 ^ 40 - 1)) }
  let put := fun (y : Tile) =>
    { y with mram := Mem.writeBytes y.mram a bs, mramPoison := cleanUnits y.mramPoison a bs.length }
  if r ≤ 3 then (put y, false)
  else if y.spares = 0 ∨ r = 7 then (y, true)
  else (put { y with spares := y.spares - 1, retired := if y.retired.contains u then y.retired else y.retired ++ [u] }, false)

/-- All units applied in ascending offset, with whether one failed for good. -/
def Tile.applyAll (x : Tile) (ctr : Nat) : Nat → List (Nat × List Byte) → Tile × Bool
  | _, [] => (x, false)
  | i, u :: us =>
    let r := x.applyUnit u.1 u.2 (rewrites ctr i)
    let q := r.1.applyAll ctr (i + 1) us
    (q.1, r.2 || q.2)

/-- How long an apply takes, in clocks: 20 for each unit and 20 for each rewrite. -/
def applyClocks (ctr n : Nat) : Nat := ((List.range n).map fun i => 20 + 20 * min (rewrites ctr i) 3).sum + 1

/-- MCMT at its commit record: a failed transaction is discarded with its code, and one that holds applies; with none open it
ends OK (DESIGN CHOICE, log 98). -/
def State.startMcmt (s : State) (t : TileNo) (k : Cmd) : State :=
  match (s.tile t).journalFor k with
  | .busy => s.faultCmd t k.id 11 0
  | .wait => s.retryStart t k
  | .open none => s.endCmd t k.id 0 0
  | .open (some j) =>
    if j.fail ≠ 0 then (s.onTile t fun x => { x with journal := none }).endCmd t k.id j.fail 0
    else
      let n := j.cells.length
      let s1 := { s with freeCtr := s.freeCtr + n }
      (s1.onTile t fun x =>
        { x with journal := some { j with committing := some k.id } }.onCmd k.id fun k =>
          { k with stat := .started, prog := s.freeCtr }).schedAt
        (s.now + s.tilePeriod t * applyClocks s.freeCtr n) (orderKey t k.ctx) (.journalApplyComplete t k.id)

/-- MABT discards the owner's transaction; with none open it ends OK (DESIGN CHOICE, log 98). -/
def State.startMabt (s : State) (t : TileNo) (k : Cmd) : State :=
  match (s.tile t).journalFor k with
  | .busy => s.faultCmd t k.id 11 0
  | .wait => s.retryStart t k
  | .open _ => (s.onTile t fun x => { x with journal := none }).endCmd t k.id 0 0

/-- JOURNAL_APPLY_COMPLETE: every unit stands at its home; CP falls and the slot is written. -/
def execJournalApplyComplete (t : TileNo) (id : Nat) (s : State) : Out :=
  let x := s.tile t
  match x.journal with
  | some j =>
    if j.committing = some id then
      let ctr := ((x.cmd? id).map (·.prog)).getD s.freeCtr
      let r := x.applyAll ctr 0 j.cells
      .next ((s.setTile t { r.1 with journal := none }).endCmd t id (if r.2 then 5 else 0) 0)
    else .next s
  | none => .next s

/-! ### Meanings -/

def execMwr (sr m n : XReg) (slot : Option SlotNo) (sbay : Bool) (s : State) : Out :=
  s.conclude (.mwr sr m n slot sbay) (issueMwr sr m n slot sbay s)
def execMcmt (n : SlotNo) (s : State) : Out := s.conclude (.mcmt n) (issueMcmt n s)
def execMabt (n : SlotNo) (s : State) : Out := s.conclude (.mabt n) (issueMabt n s)
def execMwear (d m : XReg) (kind : Bool) (s : State) : Out := s.conclude (.mwear d m kind) (issueMwear d m kind s)

end Sys2Proof.Machine
end

