-- ==== Sys2Proof/Machine/Lantern.lean ====
section
/-! DEFINITION. The Lantern (R229 to R253): its keys and handles, the walk, deposits and evictions, tree
management, the issue of its instructions and the step each takes. -/

namespace Sys2Proof.Machine

/-! ### Keys, handles and results (R232 to R234) -/

/-- The prime of R234. -/
def lanternMod : Nat := 2 ^ 61 - 1

/-- A key extended over a run of tokens (R234). -/
def extendKey (mult key : Nat) (run : List Nat) : Nat := run.foldl (fun k t => (k * mult + t + 1) % lanternMod) key

/-- A node handle (R232). -/
def nodeHandle (tree slot : Nat) (g : BitVec 8) : Nat := tree * 2 ^ 26 + nodeKey slot g

/-- A Lantern result (R233). -/
def lanternWord (depth status handle : Nat) : Word :=
  BitVec.ofNat 64 (depth % 2 ^ 24 * 2 ^ 40 + status * 2 ^ 36 + handle)

/-- The handle of a live node. -/
def Lantern.handle (l : Lantern) (slot : Nat) : Nat :=
  match Map.get? l.nodes slot with
  | some n => nodeHandle n.tree slot (l.gen slot)
  | none => 0

/-- The result that returns a node. -/
def State.nodeResult (s : State) (status slot : Nat) : Word :=
  match Map.get? s.lantern.nodes slot with
  | some n => lanternWord n.depth status (s.lantern.handle slot)
  | none => lanternWord 0 status 0

/-- The slot, node and tree of a live handle of a partition (R229, R232). -/
def State.liveNode (s : State) (p : PartNo) (h : Word) : Option (Nat × Node × Tree) :=
  let slot := (h.extractLsb' 0 18).toNat
  let tr := (h.extractLsb' 26 10).toNat
  match Map.get? s.lantern.nodes slot, Map.get? s.lantern.trees tr with
  | some n, some k =>
    if n.tree = tr ∧ s.lantern.gen slot = h.extractLsb' 18 8 ∧ k.part = p then some (slot, n, k) else none
  | _, _ => none

def State.onLantern (s : State) (f : Lantern → Lantern) : State := { s with lantern := f s.lantern }
def Lantern.onNode (l : Lantern) (slot : Nat) (f : Node → Node) : Lantern := { l with nodes := Map.adjust l.nodes slot f }
def Lantern.onTree (l : Lantern) (i : Nat) (f : Tree → Tree) : Lantern := { l with trees := Map.adjust l.trees i f }
def State.onNode (s : State) (slot : Nat) (f : Node → Node) : State := s.onLantern fun l => l.onNode slot f
def State.onTree (s : State) (i : Nat) (f : Tree → Tree) : State := s.onLantern fun l => l.onTree i f

/-- STAMP at this moment (R240). -/
def State.stamp (s : State) : BitVec 32 := BitVec.ofNat 32 (s.time / 2 ^ 20)

/-- The live nodes of a tree with a key, in ascending slot index. -/
def Lantern.keyed (l : Lantern) (tree key : Nat) : List (Nat × Node) :=
  l.nodes.filter fun n => n.2.tree == tree && n.2.key == key

/-- The live nodes of a partition's domain (R229). -/
def Lantern.domain (l : Lantern) (p : PartNo) : List (Nat × Node) :=
  l.nodes.filter fun n => match Map.get? l.trees n.2.tree with
    | some k => k.part == p
    | none => false

/-- The live nodes of a tree. -/
def Lantern.ofTree (l : Lantern) (tree : Nat) : List (Nat × Node) := l.nodes.filter fun n => n.2.tree == tree

/-! ### Runs (R236) -/

/-- Tokens of little-endian bytes. -/
def tokensOf : List Byte → List Nat
  | a :: b :: c :: d :: bs => natOfBytes [a, b, c, d] :: tokensOf bs
  | _ => []

/-- Payload bytes as memory holds them; `error true` for an uncorrectable error, `error false` where the
translation fails. -/
def State.payload (s : State) (p : PartNo) (a n : Nat) : Except Bool (List Byte) :=
  match s.hubRead p a n with
  | none => .error false
  | some bs => if s.hubPoison p a n then .error true else .ok bs

/-- The token run of a node. -/
def State.runOf (s : State) (p : PartNo) (g : Nat) (n : Node) : Option (List Nat) :=
  match s.payload p n.paddr (4 * g) with
  | .ok bs => some (tokensOf bs)
  | .error _ => none

/-- Runs of `g` tokens; what is left over is not read (R237). -/
def chunks (g : Nat) : Nat → List Nat → List (List Nat)
  | 0, _ => []
  | f + 1, l => if l.length < g then [] else l.take g :: chunks g f (l.drop g)

/-! ### The walk (R237) -/

/-- The candidates of a boundary in turn: what reading them marked, whether one keyed it, and the hit. The
root is no node's child, so that it keys a boundary and never confirms one (log 28). -/
def State.confirm (s : State) (p : PartNo) (g node : Nat) (run : List Nat) :
    List (Nat × Node) → Bool → State × Bool × Option Nat
  | [], keyed => (s, keyed, none)
  | c :: cs, keyed =>
    if c.2.bad then s.confirm p g node run cs keyed
    else if c.2.parent ≠ node ∨ c.2.depth = 0 then s.confirm p g node run cs true
    else match s.runOf p g c.2 with
    | none => (s.onNode c.1 fun n => { n with bad := true }).confirm p g node run cs keyed
    | some r => if r = run then (s, true, some c.1) else s.confirm p g node run cs true

/-- The walk from a node: the path confirmed, deepest first, and whether it ended COLLIDED. -/
def State.search (s : State) (p : PartNo) (tree : Nat) (k : Tree) :
    List (List Nat) → Nat → Nat → List Nat → State × List Nat × Bool
  | [], _, _, path => (s, path, false)
  | run :: runs, node, key, path =>
    let key2 := extendKey k.mult key run
    match s.confirm p k.g node run (s.lantern.keyed tree key2) false with
    | (s1, _, some c) => (s1.onTree tree fun t => { t with hits := t.hits + 1 }).search p tree k runs c key2 (c :: path)
    | (s1, true, none) => (s1.onTree tree fun t => { t with collisions := t.collisions + 1 }, path, true)
    | (s1, false, none) => (s1.onTree tree fun t => { t with misses := t.misses + 1 }, path, false)

/-- What a search gives: the result word, the node returned with the path to it, whether a hold was taken,
and whether it was one too many. -/
structure Found where
  word : Word
  node : Option Nat
  path : List Nat
  held : Bool
  full : Bool
  deriving DecidableEq, Repr

/-- The end of a search without PEEK (R247): the path is stamped and the node returned takes a hold. -/
def State.claimNode (s : State) (slot : Nat) (path : List Nat) : State × Bool :=
  let s1 := path.foldl (fun s n => s.onNode n fun k => { k with stamp := s.stamp }) s
  match Map.get? s1.lantern.nodes slot with
  | some n => if n.holds < 65535 then (s1.onNode slot fun k => { k with holds := k.holds + 1 }, true) else (s1, false)
  | none => (s1, false)

/-- The step of SNFIND (R237, R247). -/
def State.findStep (s : State) (p : PartNo) (h : Word) (run : List Nat) (peek : Bool) : State × Found :=
  match s.liveNode p h with
  | none => (s, ⟨lanternWord 0 5 0, none, [], false, false⟩)
  | some (slot, n, k) =>
    let r := s.search p n.tree k (chunks k.g run.length run) slot n.key []
    let last := r.2.1.headD slot
    let word := r.1.nodeResult (if r.2.2 then 1 else 0) last
    if peek then (r.1, ⟨word, some last, r.2.1, false, false⟩)
    else
      let c := r.1.claimNode last r.2.1
      (c.1, ⟨word, some last, r.2.1, c.2, !c.2⟩)

/-- The payload ranges of nodes. -/
def Lantern.payloads (l : Lantern) (ns : List Nat) : Ranges :=
  ns.filterMap fun n => (Map.get? l.nodes n).map fun k => (k.paddr, k.plen)

/-! ### The reclaim ring (R243) -/

/-- TAIL of a ring and the entries it has room for; none where the ring cannot be read or written. -/
def State.ringRoom (s : State) (p : PartNo) (ring : Nat) : Nat × Nat :=
  match s.hubRead p ring 16 with
  | none => (0, 0)
  | some bs => if s.canWrite p ring 4096 then
      (leAt bs 0 8, 252 - (leAt bs 0 8 + 2 ^ 64 - leAt bs 8 8) % 2 ^ 64) else (0, 0)

/-- A payload range posted: the entry, of which no cache keeps an older copy, then TAIL: a context that reads TAIL with
ACQ sees every entry below it (R243). -/
def State.postRange (s : State) (p : PartNo) (ring a n : Nat) : State :=
  let tail := (s.ringRoom p ring).1
  let e := ring + 64 + 16 * (tail % 252)
  let s1 := (s.dropCopies p e).hubWrite p e (bytesOfNat 8 a ++ bytesOfNat 4 n ++ bytesOfNat 4 0)
  match s1.translate p ring true with
  | .ok h => (s1.makeSync p ring h none).hubWrite p ring (bytesOfNat 8 (tail + 1))
  | .error _ => s1

/-! ### Freeing and evicting (R242) -/

/-- A slot freed: NGEN advances, its parent has a child less, and a partner left alone has CHAIN 0. -/
def Lantern.freeNode (l : Lantern) (slot : Nat) : Lantern :=
  match Map.get? l.nodes slot with
  | none => l
  | some n =>
    let l1 := { l with nodes := Map.erase l.nodes slot, ngen := Map.set l.ngen slot (l.gen slot + 1) }
    let l2 := if n.depth = 0 then l1 else l1.onNode n.parent fun k => { k with children := k.children - 1 }
    (l2.keyed n.tree n.key).foldl (fun l c => l.onNode c.1 fun k => { k with chain := false }) l2

/-- Does a node go before another as a victim? -/
def victimFirst (a b : Nat × Node) : Bool :=
  if a.2.bad != b.2.bad then a.2.bad
  else if a.2.stamp ≠ b.2.stamp then a.2.stamp.ult b.2.stamp
  else if a.2.cost ≠ b.2.cost then a.2.cost.ult b.2.cost
  else decide (a.1 < b.1)

/-- The first victim of a list. -/
def firstVictim : List (Nat × Node) → Option (Nat × Node)
  | [] => none
  | n :: ns => match firstVictim ns with
    | none => some n
    | some m => if victimFirst m n then some m else some n

/-- Is a node a candidate (R242)? -/
def State.evictable (s : State) (p : PartNo) (keep : Option Nat) (n : Nat × Node) : Bool :=
  n.2.depth != 0 && n.2.children == 0 && n.2.holds == 0 && some n.1 != keep
    && match Map.get? s.lantern.trees n.2.tree with
      | some k => decide (0 < (s.ringRoom p k.ring).2)
      | none => false

/-- A node evicted. -/
def State.evict (s : State) (p : PartNo) (n : Nat × Node) : State :=
  match Map.get? s.lantern.trees n.2.tree with
  | none => s
  | some k => ((s.postRange p k.ring n.2.paddr n.2.plen).onLantern fun l => l.freeNode n.1).onTree n.2.tree
      fun t => { t with evictions := t.evictions + 1 }

/-- The node slots of the store (R229). -/
def nodeSlots : Nat := 262144

/-- A free slot: any of them may be taken (log 4). -/
def State.freeNodeSlot (s : State) : Option Nat :=
  let k := (s.free 18).toNat
  if (Map.get? s.lantern.nodes k).isNone then some k else Map.freeFrom s.lantern.nodes 0 nodeSlots

/-- The slot an SNPUT takes, after an eviction where one is needed (R242). -/
def State.takeSlot (s : State) (p : PartNo) (tree : Nat) (k : Tree) (parent : Nat) : Option (State × Nat) :=
  let mine := s.lantern.ofTree tree
  let dom := s.lantern.domain p
  let from_ := fun (ns : List (Nat × Node)) => match firstVictim (ns.filter (s.evictable p (some parent))) with
    | some n => some (s.evict p n, n.1)
    | none => none
  if k.limit + 1 ≤ mine.length then from_ mine
  else if (s.part p).lquota ≤ dom.length then from_ dom
  else s.freeNodeSlot.map fun i => (s.drew, i)

/-! ### Deposits (R241) -/

/-- Does a range lie in the partition's pool pages (R341)? -/
def State.inPool (s : State) (p : PartNo) (a n : Nat) : Bool :=
  (List.range ((a + n + 65535) / 65536 - a / 65536)).all fun i => match s.leaf p ((a / 65536 + i) * 65536) with
    | some l => l.pool
    | none => false

/-- The payload checks; a length that PLEN cannot hold breaks them too (log 28). -/
def State.payloadOk (s : State) (p : PartNo) (g : Nat) (a n : Word) : Bool :=
  decide (a.toNat % 256 = 0 ∧ n.toNat % 256 = 0 ∧ 4 * g ≤ n.toNat ∧ n.toNat < 2 ^ 32 ∧ a.toNat + n.toNat ≤ 2 ^ 52)
    && s.inPool p a.toNat n.toNat

/-- What an SNPUT's step gives: a word, Engine Translation, or data marked by an error. -/
inductive Put
  | word (w : Word) (full : Bool)
  | translation
  | poison

/-- The step of SNPUT. -/
def State.putStep (s : State) (p : PartNo) (h a n : Word) (cost : BitVec 32) : State × Put :=
  match s.liveNode p h with
  | none => (s, .word (lanternWord 0 5 0) false)
  | some (pslot, par, k) =>
    let status := fun (c : Nat) => Put.word (lanternWord 0 c 0) false
    if !s.payloadOk p k.g a n then (s, status 10)
    else if par.bad then (s, status 6)
    else if 16777215 < par.depth + k.g then (s, status 11)
    else match s.payload p a.toNat (4 * k.g) with
    | .error true => (s, .poison)
    | .error false => (s, .translation)
    | .ok bs =>
      let run := tokensOf bs
      let key := extendKey k.mult par.key run
      let same := s.lantern.keyed par.tree key
      match same.find? fun c => c.2.parent == pslot && c.2.depth != 0 && s.runOf p k.g c.2 == some run with
      | some c =>
        let s1 := s.onNode c.1 fun m => { m with stamp := s.stamp, holds := if m.holds < 65535 then m.holds + 1 else m.holds }
        (s1, .word (s1.nodeResult 2 c.1) (decide (65535 ≤ c.2.holds)))
      | none =>
        let s0 := (same.filter fun c => c.2.parent == pslot && c.2.depth != 0 && (s.runOf p k.g c.2).isNone).foldl
          (fun s c => s.onNode c.1 fun m => { m with bad := true }) s
        if same.length = 2 then (s0.onTree par.tree fun t => { t with collisions := t.collisions + 1 }, status 4)
        else if par.children = 65535 then (s0, status 3)
        else match s0.takeSlot p par.tree k pslot with
        | none => (s0, status 3)
        | some (s1, slot) =>
          let left := s1.lantern.keyed par.tree key
          let node : Node :=
            { key := key, bad := false, chain := left.length == 1, parent := pslot, depth := par.depth + k.g, holds := 1,
              children := 0, stamp := s.stamp, cost := cost, paddr := a.toNat, plen := n.toNat, tree := par.tree }
          let s2 := s1.onLantern fun l =>
            let l1 := left.foldl (fun l c => l.onNode c.1 fun m => { m with chain := true }) l
            ({ l1 with nodes := Map.set l1.nodes slot node }).onNode pslot fun m => { m with children := m.children + 1 }
          (s2, .word (s2.nodeResult 0 slot) false)

/-! ### Trees (R245) -/

/-- The lowest tree slot free from a free place on: any may be taken (log 4). -/
def State.freeTree (s : State) : Option Nat :=
  let k := (s.free 10).toNat
  if (Map.get? s.lantern.trees k).isNone then some k else Map.freeFrom s.lantern.trees 0 1024

/-- The secrets of a new tree: drawn, or read from the ring header; none where they are refused (R235). -/
def State.secrets (s : State) (p : PartNo) (ring : Nat) (expl : Bool) : Option (Nat × Nat) :=
  if expl then match s.hubRead p (ring + 16) 16 with
    | none => none
    | some bs =>
      let sd := leAt bs 0 8
      let m := leAt bs 8 8
      if (s.part p).prot ∨ m < 2 ∨ lanternMod ≤ m ∨ lanternMod ≤ sd then none else some (sd, m)
  else some ((s.free 64).toNat % lanternMod, 2 ^ 32 + (s.drew.free 64).toNat % (lanternMod - 2 ^ 32))

/-- CREATE. -/
def State.createStep (s : State) (p : PartNo) (r : Word) (gl : Fin 7) (expl : Bool) (limit : BitVec 32) : State × Word :=
  let ring := r.toNat
  let dom := s.lantern.domain p
  let mine := s.lantern.trees.filter fun t => t.2.part == p
  let quota := (s.part p).lquota
  if ring % 4096 ≠ 0 ∨ !s.canWrite p ring 4096 then (s, lanternWord 0 8 0)
  else match s.secrets p ring expl with
  | none => (s, lanternWord 0 12 0)
  | some (sd, m) =>
    let s0 := s.drew.drew
    if 64 ≤ mine.length ∨ quota < limit.toNat ∨ quota ≤ dom.length then (s, lanternWord 0 7 0)
    else match s0.freeTree, s0.drew.freeNodeSlot with
    | some i, some slot =>
      let tree : Tree :=
        { part := p, g := 16 * 2 ^ gl.val, limit := limit.toNat, ring := ring, root := slot, seed := sd, mult := m,
          hits := 0, misses := 0, collisions := 0, evictions := 0 }
      let root : Node :=
        { key := sd, bad := false, chain := false, parent := slot, depth := 0, holds := 0, children := 0,
          stamp := s.stamp, cost := 0, paddr := 0, plen := 0, tree := i }
      let s1 := s0.drew.drew.onLantern fun l => { l with nodes := Map.set l.nodes slot root, trees := Map.set l.trees i tree }
      let s2 := match s1.hubRead p (ring + 8) 8, s1.translate p ring true with
        | some bs, .ok h => (s1.makeSync p ring h none).hubWrite p ring bs
        | _, _ => s1
      (s2, s2.nodeResult 0 slot)
    | _, _ => (s, lanternWord 0 7 0)

/-- DESTROY. Its payload ranges go to the ring by ascending slot index (DESIGN CHOICE, log 97). -/
def State.destroyStep (s : State) (p : PartNo) (h : Word) : State × Word :=
  match s.liveNode p h with
  | none => (s, lanternWord 0 5 0)
  | some (_, n, k) =>
    if n.depth ≠ 0 then (s, lanternWord 0 5 0)
    else
      let ns := s.lantern.ofTree n.tree
      let paid := ns.filter fun c => c.2.depth != 0
      if (s.ringRoom p k.ring).2 < paid.length then (s, lanternWord 0 9 0)
      else
        let s1 := paid.foldl (fun s c => s.postRange p k.ring c.2.paddr c.2.plen) s
        let s2 := ns.foldl (fun s c => s.onLantern fun l => l.freeNode c.1) s1
        (s2.onLantern fun l => { l with trees := Map.erase l.trees n.tree }, lanternWord 0 0 0)

/-- Evictions within a tree until no candidate remains or the ring is full, at most `n`. -/
def State.flushTree (s : State) (p : PartNo) (tree : Nat) : Nat → State × Nat
  | 0 => (s, 0)
  | n + 1 => match firstVictim ((s.lantern.ofTree tree).filter (s.evictable p none)) with
    | none => (s, 0)
    | some v =>
      let r := (s.evict p v).flushTree p tree n
      (r.1, r.2 + 1)

/-- FLUSH. -/
def State.flushStep (s : State) (p : PartNo) (h : Word) : State × Word :=
  match s.liveNode p h with
  | none => (s, lanternWord 0 5 0)
  | some (_, n, _) =>
    if n.depth ≠ 0 then (s, lanternWord 0 5 0)
    else
      let r := s.flushTree p n.tree (s.lantern.ofTree n.tree).length
      (r.1, lanternWord r.2 0 0)

/-! ### SNSTAT (R246) -/

/-- A node slot's 512 bits (R231). -/
def Node.word (n : Node) (g : BitVec 8) : BitVec 512 :=
  BitVec.ofNat 512 (n.key + 2 ^ 61 + n.bad.toNat * 2 ^ 62 + n.chain.toNat * 2 ^ 63 + n.parent * 2 ^ 64 + g.toNat * 2 ^ 88
    + n.depth * 2 ^ 96 + n.holds * 2 ^ 128 + n.children * 2 ^ 144 + n.stamp.toNat * 2 ^ 160 + n.cost.toNat * 2 ^ 192
    + n.paddr * 2 ^ 224 + n.plen * 2 ^ 288 + n.tree * 2 ^ 320)

/-- What SNSTAT reads. -/
def State.snWord (s : State) (p : PartNo) (h : Word) (sel : SnSel) : Word :=
  match s.liveNode p h with
  | none => BitVec.allOnes 64
  | some (slot, n, k) => match sel with
    | .word i => (n.word (s.lantern.gen slot)).extractLsb' (64 * i.val) 64
    | .hits => k.hits
    | .misses => k.misses
    | .collisions => k.collisions
    | .evictions => k.evictions
    | .live => BitVec.ofNat 64 (s.lantern.ofTree n.tree).length
    | .budget => BitVec.ofNat 64 ((s.part p).lquota - (s.lantern.domain p).length)

/-! ### Steps (R239) -/

/-- Is a copy that a deposit waits for still to publish (R241)? -/
def Cmd.isCopy (k : Cmd) : Bool :=
  match k.ins.ins with
  | .cpy .. | .cpyi .. | .cpys .. | .cpyb .. => true
  | _ => false

/-- Copies of a task issued before a deposit and not published yet. -/
def Tile.copiesBefore (x : Tile) (c : CtxNo) (tid behind : Nat) : Bool :=
  x.cmds.any fun k => k.ctx == c && k.tid == tid && decide (k.id < behind) && k.isCopy

/-- A step that still waits, and the later steps of its context behind it. -/
def State.retryLantern (s : State) (t : TileNo) (c : CtxNo) (ev : Instr) : State :=
  s.drew.postpone (s.now + s.delay (nanos 1) (nanos engineNs)) (orderKey t c) ev

/-- LANTERN_STEP: one atomic step in the order of arrival. -/
def execLanternStep (t : TileNo) (c : CtxNo) (tid : Nat) (op : LanOp) (s : State) : Out :=
  match s.partOf t with
  | none => .next s
  | some p =>
    let fault := fun (detail opc : Nat) (h : Word) (s : State) => s.arrive t c tid (defRec detail opc none h)
    let give := fun (d : XReg) (w : Word) (s : State) => (s.returnX t c tid d w).dropCp t c tid
    match op with
    | .find d h run peek =>
      let r := s.findStep p h (run.map (·.toNat)) peek
      let s1 := if r.2.full then fault 12 0xB6 r.2.word r.1 else r.1
      .next (give d r.2.word (s1.refresh t (s1.lantern.payloads r.2.path) .part))
    | .put d h a n cost behind =>
      if (s.tile t).copiesBefore c tid behind then .next (s.retryLantern t c (.lanternStep t c tid op))
      else
        let r := (s.handOff t c .part).putStep p h a n cost
        match r.2 with
        | .word w full => .next (give d w (if full then fault 12 0xB7 w r.1 else r.1))
        | .translation => .next ((fault 7 0xB7 a r.1).dropCp t c tid)
        | .poison => .next (if (r.1.ctxAt t c).runs tid then r.1.poisonTask t c else (r.1.countErr p 2).resetPartition p 0)
    | .rel h => match s.liveNode p h with
      | none => .next ((fault 14 0xB9 h s).dropCp t c tid)
      | some (slot, n, _) =>
        if n.holds = 0 then .next ((fault 13 0xB9 h s).dropCp t c tid)
        else .next ((s.onNode slot fun k => { k with holds := k.holds - 1 }).dropCp t c tid)
    | .hold h => match s.liveNode p h with
      | none => .next ((fault 14 0xBB h s).dropCp t c tid)
      | some (slot, n, _) =>
        if 65535 ≤ n.holds then .next ((fault 12 0xBB h s).dropCp t c tid)
        else .next ((s.onNode slot fun k => { k with holds := k.holds + 1 }).dropCp t c tid)
    | .stat d h sel => .next (give d (s.snWord p h sel) s)
    | .create d r gl expl limit =>
      let q := s.createStep p r gl expl limit
      .next (give d q.2 q.1)
    | .destroy d h =>
      let q := s.destroyStep p h
      .next (give d q.2 q.1)
    | .flush d h =>
      let q := s.flushStep p h
      .next (give d q.2 q.1)

/-! ### Issue (R239, R318, R320) -/

/-- A Lantern instruction's step on its way: held with 16 entries, after its segment is exposed where R320
says so. -/
def State.lanternIssue (r s : State) (exposes : Bool) (op : LanOp) : Option State :=
  r.addCp.map fun r =>
    ((if exposes then r.exposeCur else r).holdStep 16 (.lanternStep s.curTile s.curCtx s.tid op)).setNres

/-- The tokens of a run that a walk from a node reads: whole multiples of G, and none under a stale handle (R237). -/
def State.tokensRead (s : State) (p : PartNo) (h : Word) (n : Nat) : Nat :=
  match s.liveNode p h with
  | some (_, _, k) => n / k.g * k.g
  | none => 0

/-- The query of a prologue: SNFIND's step with the run read from device memory (R249, R348); a run that cannot be read,
or that holds poison, is a fault of the prologue. A hold that would pass 65,535 is not taken, and nothing reports it
(DESIGN CHOICE, log 97). -/
def State.prologueFind (r s : State) (d h rr n : XReg) (peek : Bool) : Option State :=
  let len := 4 * s.tokensRead s.curPart (s.x h) (s.x n).toNat
  match s.payload s.curPart (s.x rr).toNat len with
  | .error _ => some (r.trapCur .illegalOperand)
  | .ok bs =>
    let q := r.findStep s.curPart (s.x h) (tokensOf bs) peek
    let hold := if q.2.held then [q.2.word] else []
    some { q.1.onRegs fun g => g.setX d q.2.word with
      prologue := (q.1.onRegs fun g => g.setX d q.2.word).prologue.map fun g => { g with holds := g.holds ++ hold } }

/-- SNFIND's checks and command. Its run is read from the bay at issue (DESIGN CHOICE, log 97). -/
def issueSnfind (d h rr n : XReg) (peek : Bool) (s : State) : Issue :=
  let xn := (s.x n).toNat
  match s.cur with
  | .gondola => .check (decide (xn < 2 ^ 24)) .illegalOperand (.ok fun r => r.prologueFind s d h rr n peek)
  | .hw t c =>
    let w := s.x rr
    let o := (w.extractLsb' 0 23).toNat
    let b := s.bay (Fin.ofNat 64 (w.extractLsb' 23 6).toNat)
    let o1 := b.start_ false + o
    .check (decide (xn < 2 ^ 24)) .illegalOperand
      (both (s.srcCheck .bay w passed) (.check (decide (o + 4 * xn ≤ b.len)) .bayBounds passed)
        (.ok fun r =>
          let r1 := r.readExposes t (some c) o1 (4 * xn)
          if anyPoison (s.tile t).spPoison o1 (4 * s.tokensRead s.curPart (s.x h) xn) then some (r1.poisonTask t c)
          else r1.lanternIssue s true
            (.find d (s.x h) ((tokensOf ((s.tile t).readSp o1 (4 * xn))).map (BitVec.ofNat 32)) peek)))

def issueSnput (d h a n : XReg) (cost : BitVec 32) (s : State) : Issue :=
  .ok fun r => r.lanternIssue s true (.put d (s.x h) (s.x a) (s.x n) cost r.nextId)

def issueSnrel (h : XReg) (s : State) : Issue := .ok fun r => r.lanternIssue s false (.rel (s.x h))

def issueSnhold (h : XReg) (s : State) : Issue := .ok fun r => r.lanternIssue s false (.hold (s.x h))

def issueSnstat (d h : XReg) (sel : SnSel) (s : State) : Issue :=
  .ok fun r => r.lanternIssue s true (.stat d (s.x h) sel)

/-- SNCFG is reserved to S. -/
def State.sncfg (s : State) (op : LanOp) : Issue :=
  if s.cx.regs.priv = .U then .trap .privilegeViolation else .ok fun r => r.lanternIssue s true op

def issueSncfgCreate (d rr : XReg) (gl : Fin 7) (expl : Bool) (limit : BitVec 32) (s : State) : Issue :=
  s.sncfg (.create d (s.x rr) gl expl limit)

def issueSncfgDestroy (d h : XReg) (s : State) : Issue := s.sncfg (.destroy d (s.x h))

def issueSncfgFlush (d h : XReg) (s : State) : Issue := s.sncfg (.flush d (s.x h))

/-- SNGET (R244): the stride and the destination are checked at issue. -/
def issueSnget (p h d sx : XReg) (slot : Option SlotNo) (defer : Option (Fin 16)) (dbay : Bool) (s : State) : Issue :=
  let xp := (s.x p).toNat
  .check (decide (xp % 4 = 0 ∧ 4 ≤ xp ∧ xp ≤ 2 ^ 32)) .illegalOperand
    (both (s.dstCheck (if dbay then .bay else .global) (s.x d) passed) passed
      (.ok fun r =>
        let k := { r.newCmd s (.snget p h d sx slot defer dbay) (four (s.x p) (s.x h) (s.x d) (s.x sx)) slot with
          dstBay := s.locBay dbay (s.x d) }
        (r.holdCmd s k).map State.setNres))

/-! ### SNGET's start (R244) -/

/-- The path from below `top` down to `n`, in that order; none where `top` is no ancestor. -/
def Lantern.pathTo (l : Lantern) (top : Nat) : Nat → Nat → List Nat → Option (List Nat)
  | 0, _, _ => none
  | f + 1, n, acc =>
    if n = top then some acc
    else match Map.get? l.nodes n with
    | none => none
    | some k => if k.depth = 0 then none else l.pathTo top f k.parent (n :: acc)

/-- How gathering a path's payloads ends; a part that does not translate leaves its node BAD (R341). -/
inductive Gathered
  | fault (detail : Nat) (addr : Word)
  | absent (slot detail : Nat) (addr : Word)
  | bad (slot : Nat)
  | buf (bs : List (Nat × List Byte))

/-- Bytes of a partition's memory as memory holds them, whatever the caches hold (R244), with whether they are poisoned;
or the detail of the fault. -/
def State.memRead (s : State) (p : PartNo) : List (Nat × Nat) → Except Nat (List Byte × Bool)
  | [] => .ok ([], false)
  | q :: qs => match s.translate p q.1 false with
    | .error _ => .error 7
    | .ok h =>
      if s.lost h then .error 19
      else match s.memRead p qs with
      | .error e => .error e
      | .ok r => .ok (s.homeRead h q.2 ++ r.1, s.homePoison h q.2 || r.2)

/-- The parts of a path, the j-th at Xd + j × Xp, read as memory holds them. -/
def State.gatherPath (s : State) (t : TileNo) (p : PartNo) (k : Cmd) (g : Nat) (sp : DstSpace) : Nat → List Nat → Gathered
  | _, [] => .buf []
  | j, n :: ns => match Map.get? s.lantern.nodes n with
    | none => .fault 14 k.ops[1]
    | some x =>
      let len := x.plen - 4 * g
      if k.ops[0].toNat < len then .fault 6 k.ops[0]
      else match s.memRead p (piecesOf (x.paddr + 4 * g) len) with
      | .error e => .absent n e (BitVec.ofNat 64 x.paddr)
      | .ok (_, true) => .bad n
      | .ok (bs, false) => match (s.tile t).place t sp k.ops[2] (j * k.ops[0].toNat : Nat) len with
        | none => .fault 5 k.ops[2]
        | some a => match s.gatherPath t p k g sp (j + 1) ns with
          | .buf r => .buf ((a, bs) :: r)
          | e => e

/-- SNGET starts. A node whose HOLDS stands at 65,535 takes no transient hold, and the copy goes on (DESIGN CHOICE, log
97). -/
def State.startSnget (s : State) (t : TileNo) (p : PartNo) (k : Cmd) (dbay : Bool) : State :=
  match s.liveNode p k.ops[1], s.liveNode p k.ops[3] with
  | none, _ => s.faultCmd t k.id 14 k.ops[1]
  | _, none => s.faultCmd t k.id 14 k.ops[3]
  | some (low, _, tr), some (top, _, _) => match s.lantern.pathTo top (nodeSlots + 1) low [] with
    | none => s.faultCmd t k.id 15 k.ops[3]
    | some path =>
      let free := path.filter fun n => match Map.get? s.lantern.nodes n with
        | some x => decide (x.holds < 65535)
        | none => false
      let s1 := (free.foldl (fun s n => s.onNode n fun x => { x with holds := x.holds + 1 }) s).onTile t fun x =>
        x.onCmd k.id fun k => { k with cover := free.map fun n => nodeKey n (s.lantern.gen n) }
      match s1.gatherPath t p k tr.g (if dbay then .bay else .global) 0 path with
      | .fault e a => s1.faultCmd t k.id e a
      | .absent n e a => (s1.onNode n fun x => { x with bad := true }).faultCmd t k.id e a
      | .bad n => (s1.onNode n fun x => { x with bad := true }).faultCmd t k.id 16 (BitVec.ofNat 64 (s1.lantern.handle n))
      | .buf bs => s1.launchCmd t k bs false

/-! ### Meanings -/

def execSnfind (d h rr n : XReg) (peek : Bool) (s : State) : Out :=
  s.conclude (.snfind d h rr n peek) (issueSnfind d h rr n peek s)
def execSnput (d h a n : XReg) (cost : BitVec 32) (s : State) : Out :=
  s.conclude (.snput d h a n cost) (issueSnput d h a n cost s)
def execSnget (p h d sx : XReg) (slot : Option SlotNo) (defer : Option (Fin 16)) (dbay : Bool) (s : State) : Out :=
  s.conclude (.snget p h d sx slot defer dbay) (issueSnget p h d sx slot defer dbay s)
def execSnrel (h : XReg) (s : State) : Out := s.conclude (.snrel h) (issueSnrel h s)
def execSnstat (d h : XReg) (sel : SnSel) (s : State) : Out := s.conclude (.snstat d h sel) (issueSnstat d h sel s)
def execSnhold (h : XReg) (s : State) : Out := s.conclude (.snhold h) (issueSnhold h s)
def execSncfgCreate (d rr : XReg) (gl : Fin 7) (expl : Bool) (limit : BitVec 32) (s : State) : Out :=
  s.conclude (.sncfgCreate d rr gl expl limit) (issueSncfgCreate d rr gl expl limit s)
def execSncfgDestroy (d h : XReg) (s : State) : Out := s.conclude (.sncfgDestroy d h) (issueSncfgDestroy d h s)
def execSncfgFlush (d h : XReg) (s : State) : Out := s.conclude (.sncfgFlush d h) (issueSncfgFlush d h s)

end Sys2Proof.Machine
end

