-- ==== Sys2Proof/Machine/Collective.lean ====
section
/-! DEFINITION. Reduction groups and collectives (R261 to R276): group slots, rosters and their segments, the
arithmetic of a reduction, and how a collective arrives, runs, publishes or fails. -/

namespace Sys2Proof.Machine

/-! ### Groups (R261 to R264) -/

def Group.number (g : Group) : BitVec 16 := g.handle.extractLsb' 0 16

def State.onGroup (s : State) (p : PartNo) (n : BitVec 16) (f : Group → Group) : State :=
  { s with groups := s.groups.map fun g => if g.part = p ∧ g.number = n then f g else g }

/-- The group a handle names for a partition: the whole handle, TAG and IGEN with it, is the one issued last. -/
def State.groupOf (s : State) (p : PartNo) (h : Word) : Option Group :=
  s.groups.find? fun g => g.part == p && g.handle == h

/-- Is this device the member at a rank of a roster? -/
def State.isMember (s : State) (r : Roster) (rank : Nat) : Bool :=
  match r.members[rank]?, s.pkg.dn with
  | some m, some d => m.1 == d
  | _, _ => false

/-! ### CGRP (R265, R266) -/

/-- The bound slots of the device. -/
def State.boundSlots (s : State) : Nat :=
  (s.parts.toList.map fun p => (p.gslots.toList.filter (·.isSome)).length).sum

/-- Xd of CGRP at status OK. -/
def rosterWord (r : Roster) (rank : Nat) : Word :=
  BitVec.ofNat 64 (r.epoch.toNat * 2 ^ 32 + (r.switches.filter fun w => !w.att).length * 2 ^ 24
    + r.members.length * 2 ^ 16 + rank * 2 ^ 8)

/-- Is a slot bound to a group other than `n`? -/
def boundElsewhere (g : Option GSlot) (n : BitVec 16) : Bool :=
  match g with
  | some b => b.group != n
  | none => false

/-- JOIN's step. A slot that holds the group already is no exception to its checks: a group issued again with no key, or with
a roster that this device is not in, gives that status (DESIGN CHOICE, log 99). -/
def State.joinStep (s : State) (p : PartNo) (h : Word) (slot : Fin 16) : State × Word :=
  let cur := (s.part p).gslots[slot]
  match s.groupOf p h with
  | none => (s, 1)
  | some g => match g.rosterAt g.nextSeq with
    | none => (s, 2)
    | some r =>
      if !s.isMember r g.rank then (s, 2)
      else if boundElsewhere cur g.number then (s, 3)
      else if g.key.isNone then (s, 4)
      else if cur.isSome then (s, rosterWord r g.rank)
      else if 256 ≤ s.boundSlots then (s, 5)
      else
        let again := (s.part p).gslots.toList.any fun b => b.any fun b => b.group == g.number
        let s1 := s.onPart p fun x => { x with gslots := x.gslots.set slot (some ⟨h, g.number⟩) }
        (if again then s1 else s1.onGroup p g.number fun g => { g with nextSeq := 0 }, rosterWord r g.rank)

/-- What a COLL asks for, its control word and its root. -/
def Cmd.coll (k : Cmd) : Option (CollKind × CollCtl × Nat) :=
  match k.ins.ins with
  | .collAllreduce _ _ _ c n => some (.allreduce, c, n.toNat)
  | .collRedscat _ _ _ c n => some (.redscat, c, n.toNat)
  | .collAllgath _ _ _ c n => some (.allgath, c, n.toNat)
  | .collBcast _ _ _ _ c n => some (.bcast, c, n.toNat)
  | _ => none

/-- Is a COLL on a slot outstanding: one of a tile of the partition that has left its segment's hold? -/
def State.collOn (s : State) (p : PartNo) (slot : Fin 16) : Bool :=
  (s.tilesOf p).any fun t => (s.tile t).cmds.any fun k => k.stat != .held && match k.coll with
    | some q => q.2.1.gslot == slot
    | none => false

/-- LEAVE's step. -/
def State.leaveStep (s : State) (p : PartNo) (slot : Fin 16) : State × Word :=
  match (s.part p).gslots[slot] with
  | none => (s, 6)
  | some b =>
    if s.collOn p slot then (s, 3)
    else
      let w := match s.group? p b.group with
        | some g => match g.rosterAt g.nextSeq with
          | some r => rosterWord r g.rank
          | none => 0
        | none => 0
      (s.onPart p fun x => { x with gslots := x.gslots.set slot none }, w)

/-- CGRP exposes its segment and is reserved to S. -/
def State.cgrpIssue (s : State) (i : Instr) (h : Word) : Issue :=
  if s.cx.regs.priv = .U then .trap .privilegeViolation
  else .ok fun r => (r.exposeCur.holdCmd s (r.newCmd s i (four 0 h 0 0) none)).map State.setNres

def issueCgrpJoin (d h : XReg) (slot : Fin 16) (s : State) : Issue := s.cgrpIssue (.cgrpJoin d h slot) (s.x h)

def issueCgrpLeave (d : XReg) (slot : Fin 16) (s : State) : Issue := s.cgrpIssue (.cgrpLeave d slot) 0

/-- The step of a CGRP: Xd is written and CP falls. -/
def State.startJoin (s : State) (t : TileNo) (p : PartNo) (k : Cmd) (d : XReg) (slot : Fin 16) : State :=
  let q := s.joinStep p k.ops[1] slot
  (q.1.returnX t k.ctx k.tid d q.2).endCmd t k.id 0 0

def State.startLeave (s : State) (t : TileNo) (p : PartNo) (k : Cmd) (d : XReg) (slot : Fin 16) : State :=
  let q := s.leaveStep p slot
  (q.1.returnX t k.ctx k.tid d q.2).endCmd t k.id 0 0

/-! ### Segments (R271) -/

/-- A switch of a roster by its index. -/
def Roster.switch? (r : Roster) (i : Nat) : Option Switch := r.switches.find? fun w => w.index == i

/-- Is a switch clean: it and every switch below it have ATT = 1? -/
def Roster.clean (r : Roster) : Nat → Nat → Bool
  | 0, _ => false
  | f + 1, i => ((Roster.switch? r i).map (·.att)).getD false
    && (r.switches.filter fun w => w.parent == some i).all fun w => Roster.clean r f w.index

/-- The maximal clean switch above a switch or at it. -/
def Roster.top (r : Roster) : Nat → Nat → Option Nat
  | 0, _ => none
  | f + 1, i =>
    let here := if Roster.clean r (r.switches.length + 1) i then some i else none
    match (Roster.switch? r i).bind (·.parent) with
    | none => here
    | some j => match Roster.top r f j with
      | some k => some k
      | none => here

/-- The maximal clean switch a member lies below. -/
def Roster.topOf (r : Roster) (rank : Nat) : Option Nat :=
  (r.members[rank]?).bind fun m => m.2.bind fun i => Roster.top r (r.switches.length + 1) i

/-- A segment: its switch, if it has one, and its ranks in ascending order. -/
structure CollSeg where
  switch : Option Nat
  ranks : List Nat
  deriving DecidableEq, Repr

/-- A member joins the segments. -/
def addMember (r : Roster) (l : List CollSeg) (rank : Nat) : List CollSeg :=
  match Roster.topOf r rank with
  | none => l ++ [⟨none, [rank]⟩]
  | some w =>
    if l.any fun g => g.switch == some w then
      l.map fun g => if g.switch = some w then { g with ranks := g.ranks ++ [rank] } else g
    else l ++ [⟨some w, [rank]⟩]

/-- The segments by ascending leader rank. -/
def Roster.segments (r : Roster) : List CollSeg := (List.range r.members.length).foldl (addMember r) []

/-- Does a segment have two members or more, so that its switches sum and multicast? -/
def CollSeg.many (g : CollSeg) : Bool := decide (2 ≤ g.ranks.length)

/-- The index of a rank's segment, the segment, and the index of the last one. -/
def Roster.segIndex (r : Roster) (rank : Nat) : Nat := (Roster.segments r).findIdx fun g => g.ranks.contains rank
def Roster.segOf (r : Roster) (rank : Nat) : CollSeg := (Roster.segments r).getD (Roster.segIndex r rank) ⟨none, [rank]⟩
def Roster.lastSeg (r : Roster) : Nat := (Roster.segments r).length - 1

/-- The leader of a segment, and whether a rank leads its own. -/
def CollSeg.leader (g : CollSeg) : Nat := g.ranks.headD 0
def Roster.leads (r : Roster) (rank : Nat) : Bool := CollSeg.leader (Roster.segOf r rank) == rank

/-! ### Arithmetic (R272) -/

/-- Items in the order in which they arrive at a switch, which is free (log 4). -/
def arrivalOrder (key : Nat) (xs : List HWord) : List HWord :=
  let n := List.range xs.length
  let o := Config.sumOrder key n
  (if o.isPerm n then o else n).map fun i => xs.getD i 0

/-- A sum in FP32, each addition rounded to nearest even. -/
def sumF32 : List HWord → HWord
  | [] => 0
  | x :: xs => xs.foldl (fun a b => (fAdd FpCtl.engine a b).1) x

/-- The sum that leaves a switch: of its members of the segment and of the switches below it. -/
def Roster.switchSum (r : Roster) (key : Nat) (ranks : List Nat) (x : Nat → HWord) : Nat → Nat → Option HWord
  | 0, _ => none
  | f + 1, i =>
    let own := (ranks.filter fun q => ((r.members[q]?).bind (·.2)) == some i).map x
    let below := (r.switches.filter fun w => w.parent == some i).filterMap fun w => Roster.switchSum r key ranks x f w.index
    match own ++ below with
    | [] => none
    | l => some (sumF32 (arrivalOrder (key * 2 ^ 8 + i) l))

/-- The sum of a segment. -/
def CollSeg.sum (g : CollSeg) (r : Roster) (key : Nat) (x : Nat → HWord) : HWord :=
  match g.switch, g.ranks with
  | _, [q] => x q
  | some w, ranks => (Roster.switchSum r key ranks x (r.switches.length + 1) w).getD 0
  | none, ranks => sumF32 (ranks.map x)

/-- An element as FP32. -/
def CollType.widen (dt : CollType) (w : HWord) : HWord :=
  match dt with
  | .f32 => w
  | .bf16 => (smallToF32 b16 FpCtl.engine w).1

/-- A result as its type stores it; any NaN is the canonical one. -/
def CollType.narrow (dt : CollType) (w : HWord) : HWord :=
  match dt with
  | .f32 => if (fin32 FpCtl.engine w).isNan then canonNan else w
  | .bf16 => (fres (b16.ofVal FpCtl.engine (fin32 FpCtl.engine w))).1

/-- An element of a reduction: segment sums in segment order. -/
def reduceElem (r : Roster) (dt : CollType) (key : Nat) (x : Nat → HWord) : HWord :=
  CollType.narrow dt (sumF32 ((Roster.segments r).map fun g => g.sum r key fun q => CollType.widen dt (x q)))

/-! ### Elements -/

def CollType.bytes : CollType → Nat
  | .f32 => 4
  | .bf16 => 2

/-- The elements of bytes. -/
def elemsOf (z : Nat) (bs : List Byte) : List HWord :=
  (List.range (bs.length / z)).map fun i => BitVec.ofNat 32 (leAt bs (z * i) z)

/-- The elements a member reads and writes (R269). -/
def CollOffer.srcCount (o : CollOffer) (m rank : Nat) : Nat :=
  match o.op with
  | .redscat => o.n * m
  | .bcast => if o.root.toNat = rank then o.n else 0
  | _ => o.n

def CollOffer.dstCount (o : CollOffer) (m : Nat) : Nat :=
  match o.op with
  | .allgath => o.n * m
  | _ => o.n

/-- Do two members ask for the same (R270)? -/
def CollOffer.agrees (a b : CollOffer) : Bool :=
  a.op == b.op && a.dt == b.dt && a.n == b.n && (a.op != .bcast || a.root == b.root)

/-- The ranks whose data a member needs. -/
def CollOffer.needs (o : CollOffer) (m rank : Nat) : List Nat :=
  match o.op with
  | .bcast => if o.root.toNat = rank then [] else [o.root.toNat]
  | _ => (List.range m).filter (· != rank)

/-- The result at a member from the data of every rank (R269). -/
def CollOffer.result (o : CollOffer) (r : Roster) (key : Nat) (data : Nat → List HWord) : List HWord :=
  match o.op with
  | .allgath => (List.range r.members.length).flatMap data
  | .bcast => data o.root.toNat
  | _ => (List.range o.n).map fun e => reduceElem r o.dt (key * 2 ^ 32 + e) fun q => (data q).getD e 0

/-! ### Sums at the endpoints (R271, R437; log 100) -/

def CollOffer.reduces (o : CollOffer) : Bool := o.op == .allreduce || o.op == .redscat

/-- What has arrived of a reduction at a stage. -/
def Coll.part? (c : Coll) (st : CollStage) : Option (List HWord) := (c.parts.find? fun e => e.1 == st).map (·.2)

/-- The sum of this member's segment, at its leader: what its switch sent, or in a segment of one its own elements. -/
def Coll.segSum (c : Coll) (r : Roster) (rank : Nat) (own : List HWord) : Option (List HWord) :=
  if CollSeg.many (Roster.segOf r rank) then c.part? .segment else some (own.map (CollType.widen c.offer.dt))

/-- The sum of the segments up to this member's, at its leader: the one that arrived plus its segment's. -/
def Coll.acc (c : Coll) (r : Roster) (rank : Nat) (own : List HWord) : Option (List HWord) :=
  if Roster.segIndex r rank = 0 then c.segSum r rank own
  else match c.part? .acc, c.segSum r rank own with
    | some a, some x => some (List.zipWith (fun a b => (fAdd FpCtl.engine a b).1) a x)
    | _, _ => none

/-- Does a member form the result: is it the leader of the last segment? -/
def Roster.forms (r : Roster) (rank : Nat) : Bool := Roster.leads r rank && Roster.segIndex r rank == Roster.lastSeg r

/-- The result of a reduction at this member once messages of sums have brought it: as the last leader forms it, or as
it arrived. -/
def Coll.total (c : Coll) (r : Roster) (rank : Nat) (own : List HWord) : Option (List HWord) :=
  if c.parts.isEmpty then none
  else if Roster.forms r rank then (c.acc r rank own).map fun l => l.map (CollType.narrow c.offer.dt)
  else c.part? .total

/-- May a message of a sum be this member's, by its sender: a switch for the segment's sum and a multicast, the leader
before for a sum, and the last leader for the result? -/
def Roster.hearsPart (r : Roster) (rank sender : Nat) : CollStage → Bool
  | .segment => Roster.leads r rank && CollSeg.many (Roster.segOf r rank)
  | .acc => Roster.leads r rank && Roster.segIndex r rank != 0
      && (Roster.segments r)[Roster.segIndex r rank - 1]?.any fun g => CollSeg.leader g == sender
  | .total => !Roster.forms r rank && (CollSeg.many (Roster.segOf r rank)
      || (Roster.segments r)[Roster.lastSeg r]?.any fun g => CollSeg.leader g == sender)

/-- The messages of a contribution, of up to 4,096 bytes each (R273). -/
def messagesOf (n : Nat) : Nat := (n + 4095) / 4096

/-- The messages in which a member's own source leaves it: to its switch where its segment has one, and of ALLGATH and
BCAST, from a leader, to each other leader. -/
def CollOffer.ownMsgs (o : CollOffer) (r : Roster) (rank : Nat) : Nat :=
  let many := if CollSeg.many (Roster.segOf r rank) then 1 else 0
  (many + if !CollOffer.reduces o && Roster.leads r rank then Roster.lastSeg r else 0)
    * messagesOf (CollOffer.srcCount o r.members.length rank * CollType.bytes o.dt)

/-- The messages of sums a leader has sent: its sum to the next leader; and the result, from the last leader to each
other, and by multicast into a segment that has a switch. -/
def Coll.sumMsgs (c : Coll) (r : Roster) (rank : Nat) (own : List HWord) : Nat :=
  let z := CollType.bytes c.offer.dt
  let many := if CollSeg.many (Roster.segOf r rank) then 1 else 0
  if !CollOffer.reduces c.offer || !Roster.leads r rank then 0
  else if Roster.forms r rank then ((c.total r rank own).map fun l => (many + Roster.lastSeg r) * messagesOf (z * l.length)).getD 0
  else ((c.acc r rank own).map fun l => messagesOf (4 * l.length)).getD 0
    + ((c.total r rank own).map fun l => many * messagesOf (z * l.length)).getD 0

/-- The messages in which a leader passes on the data of ALLGATH or BCAST that arrive from a rank: to the other leaders
from its own segment, and into its segment from another. -/
def CollOffer.passMsgs (o : CollOffer) (r : Roster) (rank q : Nat) : Nat :=
  if CollOffer.reduces o || !Roster.leads r rank then 0
  else (if Roster.segIndex r q = Roster.segIndex r rank then Roster.lastSeg r
    else if CollSeg.many (Roster.segOf r rank) then 1 else 0) * messagesOf (o.n * CollType.bytes o.dt)

/-- A bound on the messages a member sends in a collective of `m` members. -/
def CollOffer.mostMsgs (o : CollOffer) (m : Nat) : Nat := (m + 1) * (m + 1) * messagesOf (o.n * (m * 4))

/-! ### Issue (R267, R268, R274) -/

/-- A barrier reference that is no reference at all: reserved bits, or a tile that does not exist (log 29). -/
def malformedRef (w : Word) : Bool := w.extractLsb' 37 27 != 0 || decide (160 ≤ (w.extractLsb' 29 8).toNat)

/-- Is the issuing partition the root of a BCAST on a slot? -/
def State.isRoot (s : State) (c : CollCtl) (root : Word) : Bool :=
  match (s.part s.curPart).gslots[c.gslot] with
  | some b => match s.group? s.curPart b.group with
    | some g => g.rank == (root.extractLsb' 0 6).toNat
    | none => false
  | none => false

/-- A COLL's checks and command. A BCAST member other than the root may give Xs = 0, and its source is not read: no bay
of it moves (R269). -/
def State.collIssue (s : State) (i : Instr) (c : CollCtl) (b sr d : Word) (root : Word) (bcast : Bool) : Issue :=
  let leaf := bcast && !s.isRoot c root
  let src := if leaf ∧ sr = 0 then passed else s.srcCheck (if c.sbay then .bay else .global) sr passed
  .check (!(c.bin || c.bout) || !malformedRef b) .illegalOperand
    (both src (s.dstCheck (if c.dbay then .bay else .global) d passed)
      (.ok fun r =>
        let k := { r.newCmd s i (four b sr d root) c.slot with
          srcBay := if leaf then none else s.locBay c.sbay sr, dstBay := s.locBay c.dbay d }
        (r.registerCmd s k b c.bin c.bout).map State.setNres))

def issueCollAllreduce (b sr d : XReg) (c : CollCtl) (n : BitVec 29) (s : State) : Issue :=
  s.collIssue (.collAllreduce b sr d c n) c (s.x b) (s.x sr) (s.x d) 0 false

def issueCollRedscat (b sr d : XReg) (c : CollCtl) (n : BitVec 29) (s : State) : Issue :=
  s.collIssue (.collRedscat b sr d c n) c (s.x b) (s.x sr) (s.x d) 0 false

def issueCollAllgath (b sr d : XReg) (c : CollCtl) (n : BitVec 29) (s : State) : Issue :=
  s.collIssue (.collAllgath b sr d c n) c (s.x b) (s.x sr) (s.x d) 0 false

def issueCollBcast (b sr d rr : XReg) (c : CollCtl) (n : BitVec 29) (s : State) : Issue :=
  s.collIssue (.collBcast b sr d rr c n) c (s.x b) (s.x sr) (s.x d) (s.x rr) true

/-! ### A collective's life (R270, R274, R275) -/

/-- A collective fails at this member with a code: 7 to 10 raise Collective Failed. -/
def State.failColl (s : State) (c : Coll) (code : Nat) : State :=
  match (s.tile c.tile).cmd? c.cmd with
  | none => { s with colls := s.colls.filter fun g => g != c }
  | some k =>
    let s1 := if 7 ≤ code then s.arrive c.tile k.ctx k.tid (defRec (if code = 11 then 18 else 17) 0xBC k.slot k.ops[1]) else s
    s1.stopCmd c.tile c.cmd code

/-- The collectives of a group and sequence number at this device. -/
def State.coll? (s : State) (p : PartNo) (g : BitVec 16) (seq : Nat) : Option Coll :=
  s.colls.find? fun c => c.part == p && c.group == g && c.seq == seq

/-- A member of a roster that no path reaches (R260). -/
def State.memberLost (s : State) (r : Roster) : Bool := r.members.any fun m => s.unreachable.getLsbD m.1.toNat

/-- A COLL arrives at the hub (R270): it takes its group's next sequence number, or finds its slot unbound; with a
member out of reach it fails at once (R260). -/
def State.startColl (s : State) (t : TileNo) (p : PartNo) (k : Cmd) (op : CollKind) (c : CollCtl) (n : Nat) : State :=
  if (c.bin ∨ c.bout) ∧ k.bar.isNone then s.retryStart t k
  else
    let o : CollOffer := ⟨op, c.dt, n, k.ops[3].extractLsb' 0 6⟩
    let lone : Coll := ⟨p, 0, 0, t, k.id, o, false, [], []⟩
    match (s.part p).gslots[c.gslot] with
    | none => s.failColl lone 11
    | some b => match s.group? p b.group with
      | none => s.failColl lone 11
      | some g =>
        let s1 := s.onGroup p b.group fun g => { g with nextSeq := g.nextSeq + 1 }
        let mine : Coll := ⟨p, b.group, g.nextSeq, t, k.id, o, false, [], []⟩
        let s2 := { s1 with colls := s1.colls ++ [mine] }
        if (g.rosterAt g.nextSeq).any s.memberLost then s2.failColl mine 8
        else if ((g.rosterAt g.nextSeq).map fun r => r.members.length) = some 1 then
          s2.sched 0 (nanos engineNs) (orderKey t k.ctx) (.collectiveMatch p b.group g.nextSeq [])
        else s2

/-- May a collective run: fewer than 8 of its group stand before it (R274)? -/
def State.collTurn (s : State) (c : Coll) : Bool :=
  decide ((s.colls.filter fun g => g.part == c.part && g.group == c.group && decide (g.seq < c.seq)).length < 8)

/-- A matched collective starts: the source is read, the destination checked, and the command launched. -/
def State.runColl (s : State) (c : Coll) (k : Cmd) (ctl : CollCtl) (r : Roster) (rank : Nat) : State :=
  let m := r.members.length
  let z := CollType.bytes c.offer.dt
  let t := c.tile
  let n := CollOffer.srcCount c.offer m rank * z
  let w := CollOffer.dstCount c.offer m * z
  let bay := if n = 0 ∨ !ctl.sbay then none else (bayLoc t k.ops[1]).map (·.1)
  let k1 := { k with srcBay := bay }
  let s0 := (s.onTile t fun x => x.onCmd k.id fun k => { k with srcBay := bay }).exposeSource t k1
  match (if n = 0 then .ok ([], false) else s0.srcRead t k1 (if ctl.sbay then .bay else .global) k.ops[1] 0 n) with
  | .error e => s0.faultCmd t k.id e k.ops[1]
  | .ok src => match (s0.tile t).place t (if ctl.dbay then .bay else .global) k.ops[2] 0 w with
    | none => s0.faultCmd t k.id 5 k.ops[2]
    | some a => match (if ctl.dbay then none else s0.storeErr c.part [(a, List.replicate w 0)]) with
      | some e => s0.faultCmd t k.id e k.ops[2]
      | none =>
        let s1 := { s0 with colls := s0.colls.map fun g => if g = c then { g with matched := true } else g }
        (s1.onGroup c.part c.group fun g => 
          { g with counter := g.counter + CollOffer.ownMsgs c.offer r rank + c.sumMsgs r rank (elemsOf z src.1) }).launchCmd t k1 [(a, src.1)] src.2

/-- COLLECTIVE_MATCH: every other member's offer is known; the collective runs, or fails on all members. One whose turn
has not come (R274), whose messages would wrap the counter before a new key is there (R273), or whose page is under a
flip looks again later. -/
def execCollectiveMatch (p : PartNo) (group : BitVec 16) (seq : Nat) (offers : List (Nat × CollOffer)) (s : State) : Out :=
  match s.coll? p group seq, s.group? p group with
  | some c, some g => match g.rosterAt seq, (s.tile c.tile).cmd? c.cmd with
    | some r, some k => match k.coll with
      | none => .next s
      | some q =>
        let m := r.members.length
        if c.matched ∨ offers.map (·.1) ≠ (List.range m).filter (· != g.rank) then .next s
        else if !s.collTurn c ∨ s.anyFlip c.tile
            ∨ 2 ^ 64 ≤ g.counter + CollOffer.mostMsgs c.offer m then
          .next (s.sched (nanos 1) (nanos engineNs) (orderKey c.tile k.ctx) (.collectiveMatch p group seq offers))
        else if (offers.any fun o => !CollOffer.agrees c.offer o.2) ∨ (c.offer.op = .bcast ∧ m ≤ c.offer.root.toNat) then
          .next (s.failColl c 7)
        else if s.memberLost r then .next (s.failColl c 8)
        else .next (s.runColl c k q.2.1 r g.rank)
    | _, _ => .next s
  | _, _ => .next s

/-- A member's own elements, as its command read them. -/
def State.collOwn (s : State) (c : Coll) : List HWord :=
  match (s.tile c.tile).cmd? c.cmd with
  | some k => elemsOf (CollType.bytes c.offer.dt) (k.buf.flatMap (·.2))
  | none => []

/-- Has a collective all the data this member needs, or the result, its own last source read included? -/
def State.collReady (s : State) (c : Coll) (r : Roster) (rank : Nat) : Bool :=
  c.matched && ((CollOffer.needs c.offer r.members.length rank).all (fun q => c.inputs.any fun e => e.1 == q)
      || (c.total r rank (s.collOwn c)).isSome)
    && match (s.tile c.tile).cmd? c.cmd with
      | some k => k.stat == .read
      | none => false

/-- A collective that has all it needs publishes soon. -/
def State.tryPublish (s : State) (p : PartNo) (group : BitVec 16) (seq : Nat) : State :=
  match s.coll? p group seq, s.group? p group with
  | some c, some g => match g.rosterAt seq with
    | some r => if s.collReady c r g.rank then
        s.sched 0 (nanos engineNs) (c.tile.val * 4) (.collectivePublish p group seq) else s
    | none => s
  | _, _ => s

/-- A member's elements that a reduction reads of it at rank `rank`: its own source in REDSCAT holds every
rank's part. -/
def ownPart (o : CollOffer) (rank : Nat) (xs : List HWord) : List HWord :=
  match o.op with
  | .redscat => (xs.drop (rank * o.n)).take o.n
  | _ => xs

/-- When the destination of a collective takes its publish: in the order of its tile (R291), after a flip (R299). -/
def State.collTick (s : State) (k : Cmd) (t : TileNo) : Nat :=
  if s.anyFlip t then s.now + nanos 100 else if (k.targets t).isEmpty then s.now else s.spTick t

/-- COLLECTIVE_PUBLISH: the result, as it arrived or from every member's data, stands whole at the destination, or the
fault that keeps it from it. -/
def execCollectivePublish (p : PartNo) (group : BitVec 16) (seq : Nat) (s : State) : Out :=
  match s.coll? p group seq, s.group? p group with
  | some c, some g => match g.rosterAt seq, (s.tile c.tile).cmd? c.cmd with
    | some r, some k =>
      if !s.collReady c r g.rank then .next s
      else if s.now < s.collTick k c.tile then
        .next (s.schedAt (s.collTick k c.tile) (orderKey c.tile k.ctx) (.collectivePublish p group seq))
      else if k.corrupt then .next (s.unitError c.tile p k)
      else
        let z := CollType.bytes c.offer.dt
        let own := ownPart c.offer g.rank (s.collOwn c)
        let data := fun (q : Nat) => if q = g.rank then own
          else ((c.inputs.find? fun e => e.1 == q).map (·.2)).getD []
        let all := match c.total r g.rank (s.collOwn c) with
          | some l => ownPart c.offer g.rank l
          | none => CollOffer.result c.offer r s.freeCtr data
        let out := all.flatMap fun w => bytesOfNat z w.toNat
        let buf := [((k.buf.head?.map (·.1)).getD 0, out)]
        let k1 := { k with buf := buf, sums := sumsOf buf }
        .next ((s.drew.onTile c.tile fun x => x.onCmd k.id fun _ => k1).publishCmd c.tile p k1)
    | _, _ => .next s
  | _, _ => .next s

/-- A collective of this device changes, and its group's counter with the messages it then sends. -/
def State.heardColl (s : State) (c c1 : Coll) (sent : Nat) : State :=
  ({ s with colls := s.colls.map fun q => if q = c then c1 else q }.onGroup c.part c.group
    fun g => { g with counter := g.counter + sent }).tryPublish c.part c.group c.seq

/-- COLLECTIVE_MESSAGE_ARRIVAL: a member's data joins the collective, which a leader of ALLGATH or BCAST passes on; the
sum of this member's segment, the sum before it, or the result joins a reduction, and the sum or the result that a leader
then forms goes on (R437); a message whose tag fails, and a failure
another member reports, fail it here. -/
def execCollectiveMessageArrival (p : PartNo) (group : BitVec 16) (seq rank : Nat) (msg : CollMsg) (s : State) : Out :=
  match s.coll? p group seq, s.group? p group with
  | some c, some g => match g.rosterAt seq with
    | none => .next s
    | some r =>
      let other := decide (rank ≠ g.rank ∧ rank < r.members.length)
      match msg with
      | .data xs =>
        if !other ∨ !c.matched ∨ xs.length ≠ c.offer.n ∨ c.inputs.any (fun e => e.1 == rank) then .next s
        else .next (s.heardColl c { c with inputs := c.inputs ++ [(rank, xs)] } (CollOffer.passMsgs c.offer r g.rank rank))
      | .part st xs =>
        if !c.matched ∨ !CollOffer.reduces c.offer ∨ (c.part? st).isSome ∨ !Roster.hearsPart r g.rank rank st
            ∨ xs.length ≠ CollOffer.srcCount c.offer r.members.length g.rank then .next s
        else
          let c1 := { c with parts := c.parts ++ [(st, xs)] }
          let own := s.collOwn c
          .next (s.heardColl c c1 (c1.sumMsgs r g.rank own - c.sumMsgs r g.rank own))
      | .badTag => if c.matched then .next (s.failColl c 9) else .next s
      | .failed code => if !other then .next s else if code = 2 ∨ (7 ≤ code ∧ code ≤ 10) then .next (s.failColl c code) else .next s
  | _, _ => .next s

/-! ### Rosters (R262 to R264) -/

/-- The switches from one up to another, both included; none of them where the other does not lie above. -/
def Roster.upTo (r : Roster) (top : Nat) : Nat → Nat → List Nat
  | 0, _ => []
  | f + 1, i => if i = top then [i] else match (Roster.switch? r i).bind (·.parent) with
    | some j => i :: Roster.upTo r top f j
    | none => [i]

/-- The switches a segment of two or more members sums or multicasts in. -/
def CollSeg.uses (g : CollSeg) (r : Roster) : List Nat :=
  match g.switch with
  | some w => if g.ranks.length < 2 then [] else g.ranks.flatMap fun q => match (r.members[q]?).bind (·.2) with
    | some i => Roster.upTo r w (r.switches.length + 1) i
    | none => []
  | none => []

/-- Does a collective use, in-switch, a switch that a new roster no longer trusts (R264)? -/
def leavesTrust (old new : Roster) : Bool :=
  (Roster.segments old).any fun g => (g.uses old).any fun w => !((Roster.switch? new w).map (·.att)).getD false

/-- A new roster in force from its fence on; collectives under way through a switch that left fail with
PATH_LOST. -/
def State.installRoster (s : State) (p : PartNo) (group : BitVec 16) (r : Roster) : State :=
  match s.group? p group with
  | none => s
  | some g =>
    let next := match g.rosters with
      | [] => true
      | q :: _ => r.epoch == q.epoch + 1
    let above := s.colls.all fun c => !(c.part == p && c.group == group && c.matched) || decide (c.seq < r.fence)
    if !next ∨ (!g.rosters.isEmpty ∧ !above) ∨ r.members.isEmpty ∨ 64 < r.members.length ∨ 64 < r.switches.length then s
    else
      let hit := s.colls.filter fun c => c.part == p && c.group == group && c.matched
        && match g.rosterAt c.seq with
          | some q => leavesTrust q r
          | none => false
      hit.foldl (fun s c => s.failColl c 10) (s.onGroup p group fun g => { g with rosters := r :: g.rosters })

/-- ROSTER_INSTALL: a roster of the home core arrives. -/
def execRosterInstall (p : PartNo) (group : BitVec 16) (r : Roster) (s : State) : Out := .next (s.installRoster p group r)

/-- SECURED_SESSION_END: this device is the group's home, and its core issues the new roster. -/
def execSecuredSessionEnd (p : PartNo) (group : BitVec 16) (r : Roster) (s : State) : Out :=
  match s.group? p group with
  | some g => if g.rank = 0 then .next (s.installRoster p group r) else .next s
  | none => .next s

/-- SESSION_KEY_DELIVERY: a group is created or issued again for a partition, with its session key once that has
reached this device. -/
def execSessionKeyDelivery (p : PartNo) (handle : Word) (rank : Nat) (key : Option (BitVec 256)) (s : State) : Out :=
  let n : BitVec 16 := handle.extractLsb' 0 16
  match s.group? p n with
  | some _ => .next (s.onGroup p n fun g => { g with handle := handle, rank := rank, key := key, counter := 0 })
  | none => .next { s with groups := s.groups ++ [⟨handle, p, rank, [], key, 0, 0⟩] }

/-! ### Meanings -/

def execCollAllreduce (b sr d : XReg) (c : CollCtl) (n : BitVec 29) (s : State) : Out :=
  s.conclude (.collAllreduce b sr d c n) (issueCollAllreduce b sr d c n s)
def execCollRedscat (b sr d : XReg) (c : CollCtl) (n : BitVec 29) (s : State) : Out :=
  s.conclude (.collRedscat b sr d c n) (issueCollRedscat b sr d c n s)
def execCollAllgath (b sr d : XReg) (c : CollCtl) (n : BitVec 29) (s : State) : Out :=
  s.conclude (.collAllgath b sr d c n) (issueCollAllgath b sr d c n s)
def execCollBcast (b sr d rr : XReg) (c : CollCtl) (n : BitVec 29) (s : State) : Out :=
  s.conclude (.collBcast b sr d rr c n) (issueCollBcast b sr d rr c n s)
def execCgrpJoin (d h : XReg) (slot : Fin 16) (s : State) : Out :=
  s.conclude (.cgrpJoin d h slot) (issueCgrpJoin d h slot s)
def execCgrpLeave (d : XReg) (slot : Fin 16) (s : State) : Out := s.conclude (.cgrpLeave d slot) (issueCgrpLeave d slot s)

end Sys2Proof.Machine
end

