-- ==== Sys2Proof/Machine/Commands.lean ====
section
/-! DEFINITION. The three steps every engine command passes through: its start, its last source read and its
publish (R184, R215, R216). -/

namespace Sys2Proof.Machine

/-- A released command's start. -/
def State.startCmd (s : State) (t : TileNo) (p : PartNo) (k : Cmd) : State :=
  match k.ins.ins with
  | .cpy _ _ _ _ c => s.startCopy t p k c
  | .cpyi _ _ _ c _ => s.startCopy t p k c
  | .cpys _ _ _ _ c => s.startCopy t p k c
  | .cpyb _ _ _ _ c => s.startCopy t p k c
  | .pub mask => s.startPub t k mask
  | .mwr _ _ _ _ sbay => s.startMwr t k sbay
  | .mcmt _ => s.startMcmt t k
  | .mabt _ => s.startMabt t k
  | .tilewk _ hold => s.startWake t p k hold
  | .tileoff _ => s.startOff t p k
  | .evpost _ ev => s.startEvent t p k ev
  | .snget _ _ _ _ _ _ dbay => s.startSnget t p k dbay
  | .cgrpJoin d _ slot => s.startJoin t p k d slot
  | .cgrpLeave d slot => s.startLeave t p k d slot
  | _ => match k.coll with
    | some q => s.startColl t p k q.1 q.2.1 q.2.2
    | none => s

/-- Does a command reach global memory from its start on? -/
def Cmd.reachesGlobal (k : Cmd) : Bool := k.source.isSome || k.onEngine

/-- Is a command an SNGET, whose start keeps its place among the Lantern steps of its context (R239)? -/
def Cmd.isSnget (k : Cmd) : Bool :=
  match k.ins.ins with
  | .snget .. => true
  | _ => false

/-- The locator that a fault which awaits a command names: the bank it was to fill, else its barrier. -/
def Cmd.doomed (k : Cmd) (d : Nat) : Word := if d = 8 then k.ops[2] else k.ops[0]

/-- COPY_START: a command that its barrier or its bank turned away faults; one that waits for a copy engine (R342) or
for a flip (R299) looks again; any other starts. -/
def execCopyStart (t : TileNo) (id : Nat) (s : State) : Out :=
  match (s.tile t).cmd? id, s.partOf t with
  | some k, some p =>
    if k.stat ≠ .issued then .next s
    else match k.doom with
    | some d => .next (s.faultCmd t id d (k.doomed d))
    | none =>
      if k.onEngine ∧ !(s.tile t).engineFree k then .next (if k.isSnget then s.retryStart t k else s)
      else if k.reachesGlobal ∧ s.anyFlip t then .next (s.retryStart t k)
      else .next (s.startCmd t p k)
  | _, _ => .next s

/-- LAST_SOURCE_READ: the source bay and OUT move, and the command goes on to its end. -/
def execLastSourceRead (t : TileNo) (id : Nat) (s : State) : Out :=
  match (s.tile t).cmd? id, s.partOf t with
  | some k, some p =>
    if k.stat ≠ .started then .next s
    else
      let s1 := s.sourceRead t p k
      match k.ins.ins with
      | .mwr .. =>
        let n := 210 * ((k.buf.map (·.2.length)).sum / 4)
        .next (s1.sched n (n + nanos engineNs) (orderKey t k.ctx) (.journalWriteComplete t id))
      | _ => match k.coll with
        | some _ => match s1.colls.find? fun c => c.tile == t && c.cmd == id with
          | some c => .next (s1.tryPublish p c.group c.seq)
          | none => .next s1
        | none => .next (s1.sched 0 (nanos engineNs) (orderKey t k.ctx) (.copyPublish t id))
  | _, _ => .next s

/-- COPY_PUBLISH: a copy publishes or waits for its PUB, a PUB publishes what it covers, and a TILEWK or
TILEOFF ends once its tiles are there. -/
def execCopyPublish (t : TileNo) (id : Nat) (s : State) : Out :=
  match (s.tile t).cmd? id, s.partOf t with
  | some k, some p => match k.ins.ins with
    | .pub _ => if k.stat = .started then .next (s.finishPub t p k) else .next s
    | .tilewk _ _ => if k.stat = .started then .next (s.finishTiles t k) else .next s
    | .tileoff _ => if k.stat = .started then .next (s.finishTiles t k) else .next s
    | _ => if k.stat = .read then .next (s.finishCopy t p k) else .next s
  | _, _ => .next s

end Sys2Proof.Machine
end

