-- ==== Sys2Proof/Machine/Results.lean ====
section
/-! DEFINITION. Results in flight (R31, R71, R73, R145, R146): what a result writes at its result clock, and the
end of a rename move (R16, R17). -/

namespace Sys2Proof.Machine

/-- The flags of a result, ORed in at its result clock: FPCTL[10:4] and STKY.MNAR (R31). -/
def Ctx.landFlags (x : Ctx) (f : Flight) : Ctx :=
  let m := Word.ofBool f.mnar
  { x with
    regs := { x.regs with fpctl := x.regs.fpctl ||| (f.ffl.zeroExtend 64 <<< 4), stky := x.regs.stky ||| m },
    flagsNow := x.flagsNow ||| f.ffl, stkyNow := x.stkyNow ||| m }

/-- The registers after a scalar, address, CM or mask-stack result. -/
def Regs.land (g : Regs) (f : Flight) : Regs :=
  match f.dest with
  | .x r => g.setX r f.val
  | .a r => { g with as := g.as.set r f.val }
  | .cm => { g with cm := f.vec.extractLsb' 0 1024 }
  | .ms e w d => { g with ms := if w then g.ms.set e (f.vec.extractLsb' 0 1024) else g.ms, msd := d }
  | .v _ _ => g

/-- A result lands: a vector result in its physical register under its mask, any other in its register. -/
def Tile.landOne (x : Tile) (c : CtxNo) (f : Flight) : Tile :=
  let k := (x.ctxs[c]).landFlags f
  let y := x.setCtx c { k with regs := k.regs.land f }
  match f.dest with
  | .v _ pv => y.onPreg pv fun r => { r with val := vmerge f.mask r.val f.vec }
  | _ => y

/-- The results due, in the order of issue, then of the slots. -/
def Tile.landAll (x : Tile) (c : CtxNo) : List Flight → Tile
  | [] => x
  | f :: fs => (x.landOne c f).landAll c fs

/-- The results of a context whose result clock has come. -/
def Tile.landDue (x : Tile) (c : CtxNo) : Tile :=
  let k := x.ctxs[c]
  let due := fun (f : Flight) => decide (f.due ≤ x.cycle)
  (x.setCtx c { k with flight := k.flight.filter fun f => !due f }).landAll c (k.flight.filter due)

/-- RESULT_CLOCK. -/
def execResultClock (t : TileNo) (c : CtxNo) (s : State) : Out := .next (s.onTile t fun x => x.landDue c)

/-- RENAME_SPILL: the spill or fill under way has finished. -/
def Tile.endSpill (x : Tile) : Tile :=
  match x.spill with
  | some at_ => if at_ ≤ x.cycle then { x with spill := none } else x
  | none => x

def execRenameSpill (t : TileNo) (s : State) : Out := .next (s.onTile t Tile.endSpill)

end Sys2Proof.Machine
end

