-- ==== Sys2Proof/Machine/Traps.lean ====
section
/-! DEFINITION. The events taken at a bundle boundary (R303, R308, R313, R315), the fault of a bundle's encoding and
of a capture (R83, R84, R112), and what ERET left to be done when its bundle issues (R310). -/

namespace Sys2Proof.Machine

/-! ### Boundaries (R17, R103, R303) -/

/-- Is the context at a clock at which it would issue its next bundle: no branch gap or handler entry is
running, and no spill or fill is under way on its tile? -/
def State.atBoundary (s : State) (t : TileNo) (c : CtxNo) : Bool :=
  (s.ctxAt t c).run == .bound && decide ((s.ctxAt t c).resumeAt ≤ (s.tile t).cycle) && (s.tile t).spill.isNone

/-- The earliest G access fault that has arrived and is not reported (R308). -/
def Ctx.faultedG (x : Ctx) : Option GAcc := x.gaccs.find? fun g => g.stat == .faulted && !g.dlv

/-- The cause of a G access fault from its code. -/
def gCauseOf (code : BitVec 8) : Cause :=
  if code = 0x21 then .storeFault else if code = 0x22 then .protection else if code = 0x23 then .roster
  else if code = 0x24 then .remoteAccess else if code = 0x25 then .releaseIncomplete else .loadFault

/-- Does a bundle hold a WAITC on CP in its K slot (R115)? -/
def Bundle.waitsCp (b : Bundle) : Bool :=
  b.items.any fun e => e.1 == .K && match e.2.ins with
    | .waitc n => decide (n.cp.toNat < 31)
    | _ => false

/-- Is the next bundle a delivery point of deferred engine faults (R313)? -/
def State.deliveryPoint (s : State) (t : TileNo) (c : CtxNo) : Bool :=
  match s.fetch t c with
  | .ok b => Bundle.waitsCp b || s.atDrain t c
  | .error _ => false

/-- Is a pending interrupt enabled (R315)? -/
def Ctx.intEnabled (x : Ctx) : Bool :=
  !x.ints.isEmpty && x.frame.isNone && (x.regs.priv == .U || x.regs.ie)

/-- The lowest pending number. -/
def lowestInt (l : List (BitVec 10)) : Nat := l.foldl (fun m n => min m n.toNat) 1023

/-- The first event of R303 that applies at the boundary of a context, taken: Software Trap or System Call
after its bundle, a G access fault, deferred engine faults at a delivery point, an enabled interrupt. -/
def State.takeEvent (s : State) (t : TileNo) (c : CtxNo) : Option State :=
  let x := s.ctxAt t c
  let pc := x.regs.pc
  if x.afterIssue.isSome then some (s.takeAfter t c)
  else match x.faultedG with
  | some g => some (s.takeTrap t c (gCauseOf g.fcode) 6 0 pc true false)
  | none =>
    if !x.dq.isEmpty ∧ s.deliveryPoint t c then some (s.takeTrap t c .engineFault 0 0 pc false true)
    else if x.intEnabled then
      let n := lowestInt x.ints
      some ((s.onCtx t c fun x => { x with
        ints := x.ints.filter fun m => m.toNat != n,
        tookInts := x.tookInts ++ [(x.seg, BitVec.ofNat 10 n)] }).takeTrap t c .interrupt 0 n
        pc false false)
    else none

/-- TRAP_ENTRY: the event of a context that stands at a boundary. -/
def execTrapEntry (t : TileNo) (c : CtxNo) (s : State) : Out :=
  if s.atBoundary t c then .next ((s.takeEvent t c).getD s) else .next s

/-- DEFERRED_FAULT_ARRIVAL (R312). -/
def execDeferredFaultArrival (t : TileNo) (c : CtxNo) (tid : Nat) (r : DefRec) (s : State) : Out :=
  .next (s.arrive t c tid r)

/-- INTERRUPT_POST: the number is pending until it is taken (R314); a halted context becomes runnable, and one
on a tile in IDLE wakes it (R129, R386). -/
def execInterruptPost (t : TileNo) (c : CtxNo) (n : BitVec 10) (s : State) : Out :=
  let x := s.ctxAt t c
  if x.ints.contains n then .next s
  else
    let s1 := s.onCtx t c fun x => { x with ints := x.ints ++ [n] }
    if x.run = .halted then .next ((s1.onCtx t c fun x => { x with run := .bound }).wake t) else .next s1

/-! ### Encoding and capture faults (R83, R84, R112) -/

def EncFault.cause : EncFault → Cause
  | .illegalInstruction => .illegalInstruction
  | .illegalSlot => .illegalSlot
  | .privilege => .privilegeViolation

/-- The fault of a bundle that the nest captures, none where it joins the loop buffer. -/
def Nest.captureFault (n : Nest) (b : Bundle) : Option Cause :=
  if n.complete then none
  else if b.items.any fun e => e.1 == .K && e.2.ins != .nop then some .illegalInstruction
  else if n.n < n.counted + b.items.length ∨ 64 ≤ n.body.length then some .illegalOperand
  else none

/-- A nest ends: every ACT, every arm and the capture are cleared (R112, R113). -/
def Regs.endNest (g : Regs) : Regs := { g with lcs := g.lcs.map fun l => { l with act := false, arm := none }, nest := none }

/-- The REP field of the header at a PC. -/
def State.headerRep (s : State) (t : TileNo) (pc : Word) : Nat :=
  (((s.fetchWords t pc).headD 0).extractLsb' 10 6).toNat

/-- The registers at a precise fault of a bundle with REP = n: on the first repetition all n + 1 are still to issue, of
which REPL holds the low six bits; a REPL of 0 resumes the bundle from its first repetition (R69, R309; log 52). -/
def Regs.faultAt (g : Regs) (n : Nat) : Regs :=
  { g with rep := if g.rep.isNone ∧ n ≠ 0 ∧ n ≠ 63 then some (n + 1) else g.rep }

/-- The bundle a context is to issue, or the trap that keeps it from issuing. -/
def State.nextBundle (s : State) (t : TileNo) (c : CtxNo) : Except State Bundle :=
  let g := (s.ctxAt t c).regs
  match s.fetch t c with
  | .error e =>
    .error ((s.onCtx t c fun x => { x with regs := x.regs.faultAt (s.headerRep t g.pc) }).takeTrap t c (EncFault.cause e.1)
      e.2.val 0 g.pc false false)
  | .ok b => match g.nest.bind fun n => n.captureFault b with
    | some cause =>
      .error ((s.onCtx t c fun x => { x with regs := x.regs.endNest.faultAt b.rep }).takeTrap t c cause 0 0 g.pc false false)
    | none => .ok b

/-! ### Re-injection (R310) -/

/-- The V register a load record writes. -/
def GAcc.vdest (g : GAcc) : Option VReg :=
  match g.ins.ins with
  | .gldv d _ => some d
  | _ => none

/-- Does a G access expose its segment at its issue (R320)? -/
def exposesG (i : Instr) : Bool :=
  isSyncOp i || isFence i || match i with
    | .ginv _ _ => true
    | .gwb _ _ => true
    | _ => false

/-- A record of the frame at the bundle ERET resumes: a load that is DONE writes its register, and a REPLAY
record, or a fault the handler knows of, is issued again, which exposes the segment where its issue does. -/
def State.reinjectOne (s : State) (t : TileNo) (c : CtxNo) (g : GAcc) : State :=
  let r := match g.vdest with
    | some d => (s.claimV s d).getD (s, g.pv)
    | none => (s, g.pv)
  let g1 := { g with pv := r.2 }
  match g.stat with
  | .done => if countsLd g.ins.ins then r.1.gWrite t c g1 g.data g.vec else s
  | _ =>
    let g2 := { g1 with
      stat := .outstanding, fcode := 0, dlv := false, uncounted := false,
      due := (s.tile t).cycle + (if countsLd g.ins.ins then 12 else 1) + Config.delay s.freeCtr % 65536 }
    ((if exposesG g.ins.ins then r.1.expose t c else r.1).drew.onCtx t c fun x => { x with
      gaccs := x.gaccs ++ [g2],
      regs := if countsLd g.ins.ins then { x.regs with ld := x.regs.ld + 1 } else { x.regs with st := x.regs.st + 1 } })

/-- The vector names the records write. -/
def Reinject.names (r : Reinject) : List VReg := r.pend.filterMap GAcc.vdest

/-- Would the records issued again pass a class counter's maximum? -/
def Reinject.overflows (r : Reinject) (g : Regs) : Bool :=
  let again := r.pend.filter fun k => k.stat != .done
  let n := (again.filter fun k => countsLd k.ins.ins).length
  decide (63 < g.ld + n ∨ 63 < g.st + (again.length - n))

/-- The records of ERET at the first boundary after it (R310, R405): none where nothing is left to do; else the state after
this clock's part, with whether the boundary's events and its bundle may go on. -/
def State.reinjectPend (s : State) (t : TileNo) (c : CtxNo) : State × Bool :=
  match (s.ctxAt t c).reinject with
  | none => (s, true)
  | some r =>
    if r.pend.isEmpty then (s, true)
    else if (s.tile t).needsMove c r.names r.names then (s.onTile t fun x => x.startMove c r.names, false)
    else if r.overflows (s.ctxAt t c).regs then (s, false)
    else
      let s1 := r.pend.foldl (fun s g => s.reinjectOne t c g) s
      (s1.onCtx t c fun x => { x with reinject := some { r with pend := [] } }, true)

/-- The vector names the latches write. -/
def Ctx.latchNames (x : Ctx) : List VReg :=
  match x.reinject with
  | some r => r.latches.filterMap fun f => match f.dest with
    | .v d _ => if f.mask = 0 then none else some d
    | _ => none
  | none => []

/-- A latch in flight again, due REM clocks after the bundle's issue. One of a vector result with no element left to
write keeps its name and writes nothing but its flags. -/
def State.relaunch (s : State) (t : TileNo) (c : CtxNo) (f : Flight) : State :=
  let due := (s.tile t).cycle + f.due
  let put := fun (s : State) (f : Flight) =>
    s.onCtx t c fun x => { x with flight := x.flight ++ [{ f with issued := 0, due := due }] }
  match f.dest with
  | .v d _ =>
    if f.mask = 0 then put s f
    else match s.claimV s d with
    | some r => put r.1 { f with dest := .v d r.2 }
    | none => put s { f with mask := 0 }
  | _ => put s f

/-- The latches go into flight as the resumed bundle issues. -/
def State.relaunchAll (s : State) (t : TileNo) (c : CtxNo) : State :=
  match (s.ctxAt t c).reinject with
  | some r => (r.latches.foldl (fun s f => s.relaunch t c f) s).onCtx t c fun x => { x with reinject := none }
  | none => s

end Sys2Proof.Machine
end

