-- ==== Sys2Proof/Machine/Bundle.lean ====
section
/-! DEFINITION. How a bundle issues (R64 to R75): held instructions, flags and repetitions, the checks of all slots
before any effect, the effects in slot order; the loop buffer and the end of a pass (R112, R113). -/

namespace Sys2Proof.Machine

/-- What an instruction of a slot meets at the clock of the acting context. -/
def issueOf (i : Instr) (s : State) : Issue :=
  match i with
  | .nop => issueNop s
  | .br a b c d => issueBr a b c d s
  | .bri a => issueBri a s
  | .call a b => issueCall a b s
  | .calli a b => issueCalli a b s
  | .ret a => issueRet a s
  | .brmz a => issueBrmz a s
  | .brmf a => issueBrmf a s
  | .lset a b c => issueLset a b c s
  | .lstr a b c => issueLstr a b c s
  | .lrun a b c => issueLrun a b c s
  | .lbrk a b => issueLbrk a b s
  | .waitc a => issueWaitc a s
  | .waitb a b c d => issueWaitb a b c d s
  | .yield => issueYield s
  | .texit => issueTexit s
  | .tspawn a b c d => issueTspawn a b c d s
  | .tcont a b c d => issueTcont a b c d s
  | .tsig a b c => issueTsig a b c s
  | .tdep a b => issueTdep a b s
  | .ifence => issueIfence s
  | .banksw a => issueBanksw a s
  | .halt => issueHalt s
  | .tarm a b c d e => issueTarm a b c d e s
  | .add a b c => issueAdd a b c s
  | .sub a b c => issueSub a b c s
  | .addi a b c => issueAddi a b c s
  | .mul a b c => issueMul a b c s
  | .mulh a b c => issueMulh a b c s
  | .fcmp a b c d => issueFcmp a b c d s
  | .div a b c => issueDiv a b c s
  | .divu a b c => issueDivu a b c s
  | .rem a b c => issueRem a b c s
  | .fcvt a b c => issueFcvt a b c s
  | .and a b c => issueAnd a b c s
  | .or a b c => issueOr a b c s
  | .xor a b c => issueXor a b c s
  | .shl a b c => issueShl a b c s
  | .shr a b c => issueShr a b c s
  | .sar a b c => issueSar a b c s
  | .min a b c => issueMin a b c s
  | .max a b c => issueMax a b c s
  | .slt a b c => issueSlt a b c s
  | .sltu a b c => issueSltu a b c s
  | .sel a b c d => issueSel a b c d s
  | .bfx a b c d => issueBfx a b c d s
  | .bfi a b c d => issueBfi a b c d s
  | .clz a b => issueClz a b s
  | .popc a b => issuePopc a b s
  | .li a b => issueLi a b s
  | .amov a => issueAmov a s
  | .fadd a b c => issueFadd a b c s
  | .fmul a b c => issueFmul a b c s
  | .ffma a b c d => issueFfma a b c d s
  | .vaddF a b c => issueVaddF a b c s
  | .vaddI a b c => issueVaddI a b c s
  | .vsubF a b c => issueVsubF a b c s
  | .vsubI a b c => issueVsubI a b c s
  | .vmulF a b c => issueVmulF a b c s
  | .vmulI a b c => issueVmulI a b c s
  | .vfmaF a b c => issueVfmaF a b c s
  | .vminF a b c => issueVminF a b c s
  | .vmaxF a b c => issueVmaxF a b c s
  | .vminI a b c => issueVminI a b c s
  | .vmaxI a b c => issueVmaxI a b c s
  | .vabsF a b => issueVabsF a b s
  | .vnegF a b => issueVnegF a b s
  | .vand a b c => issueVand a b c s
  | .vor a b c => issueVor a b c s
  | .vxor a b c => issueVxor a b c s
  | .vshl a b c => issueVshl a b c s
  | .vshr a b c => issueVshr a b c s
  | .vsar a b c => issueVsar a b c s
  | .vcmpF a b c => issueVcmpF a b c s
  | .vcmpI a b c => issueVcmpI a b c s
  | .vsel a b c => issueVsel a b c s
  | .vmov a b => issueVmov a b s
  | .vacc a b => issueVacc a b s
  | .vrdt a b => issueVrdt a b s
  | .vrotr a b c => issueVrotr a b c s
  | .vrotc a b c => issueVrotc a b c s
  | .vbcr a b c => issueVbcr a b c s
  | .vbcc a b c => issueVbcc a b c s
  | .vredr a b c => issueVredr a b c s
  | .vredc a b c => issueVredc a b c s
  | .vtrn a b => issueVtrn a b s
  | .vexp2 a b => issueVexp2 a b s
  | .vlog2 a b => issueVlog2 a b s
  | .vexp a b => issueVexp a b s
  | .vlog a b => issueVlog a b s
  | .vrcp a b => issueVrcp a b s
  | .vrsq a b => issueVrsq a b s
  | .vtanh a b => issueVtanh a b s
  | .vsigm a b => issueVsigm a b s
  | .vcvt a b c => issueVcvt a b c s
  | .vnarw a b c => issueVnarw a b c s
  | .vwidn a b c => issueVwidn a b c s
  | .mpush => issueMpush s
  | .minv => issueMinv s
  | .mpop => issueMpop s
  | .mma a b c d e => issueMma a b c d e s
  | .mmaf a b c d e => issueMmaf a b c d e s
  | .mmas a b c d e => issueMmas a b c d e s
  | .mzero a b => issueMzero a b s
  | .mput a b => issueMput a b s
  | .mskip a b c d => issueMskip a b c d s
  | .mdrain a b c => issueMdrain a b c s
  | .mstat a b => issueMstat a b s
  | .pld a b => issuePld a b s
  | .pst a b => issuePst a b s
  | .pldb a b c d => issuePldb a b c d s
  | .pstb a b c d => issuePstb a b c d s
  | .plds a b c => issuePlds a b c s
  | .psts a b c => issuePsts a b c s
  | .pldx a b c => issuePldx a b c s
  | .pstx a b c => issuePstx a b c s
  | .pstm a b => issuePstm a b s
  | .patom a b c d => issuePatom a b c d s
  | .patomR a b c d => issuePatomR a b c d s
  | .binit a b c => issueBinit a b c s
  | .barv a b => issueBarv a b s
  | .barvR a b => issueBarvR a b s
  | .bwait a b => issueBwait a b s
  | .bwaitR a b => issueBwaitR a b s
  | .pstsc a b c => issuePstsc a b c s
  | .pldsc a b c d => issuePldsc a b c d s
  | .baycfg a b c => issueBaycfg a b c s
  | .bayst a b => issueBayst a b s
  | .bayrel a => issueBayrel a s
  | .gld a b c d => issueGld a b c d s
  | .gst a b c => issueGst a b c s
  | .gldv a b => issueGldv a b s
  | .gstv a b => issueGstv a b s
  | .gatom a b c d e => issueGatom a b c d e s
  | .gcas a b c d => issueGcas a b c d s
  | .acq a b c => issueAcq a b c s
  | .rel a b c d => issueRel a b c d s
  | .acqs a b c d => issueAcqs a b c d s
  | .bind a b c d => issueBind a b c d s
  | .unbind a b => issueUnbind a b s
  | .gfence a => issueGfence a s
  | .gpref a b => issueGpref a b s
  | .ginv a b => issueGinv a b s
  | .gwb a b => issueGwb a b s
  | .gldc a b c d => issueGldc a b c d s
  | .gstc a b c => issueGstc a b c s
  | .gprobe a b => issueGprobe a b s
  | .cpy a b c d e => issueCpy a b c d e s
  | .cpyi a b c d e => issueCpyi a b c d e s
  | .cfeed a b c d e => issueCfeed a b c d e s
  | .pub a => issuePub a s
  | .cstat a b => issueCstat a b s
  | .cabrt a => issueCabrt a s
  | .snfind a b c d e => issueSnfind a b c d e s
  | .snput a b c d e => issueSnput a b c d e s
  | .snget a b c d e f g => issueSnget a b c d e f g s
  | .snrel a => issueSnrel a s
  | .snstat a b c => issueSnstat a b c s
  | .snhold a => issueSnhold a s
  | .collAllreduce a b c d e => issueCollAllreduce a b c d e s
  | .collRedscat a b c d e => issueCollRedscat a b c d e s
  | .collAllgath a b c d e => issueCollAllgath a b c d e s
  | .collBcast a b c d e f => issueCollBcast a b c d e f s
  | .cgrpJoin a b c => issueCgrpJoin a b c s
  | .cgrpLeave a b => issueCgrpLeave a b s
  | .mwr a b c d e => issueMwr a b c d e s
  | .mcmt a => issueMcmt a s
  | .mabt a => issueMabt a s
  | .mwear a b c => issueMwear a b c s
  | .tilewk a b => issueTilewk a b s
  | .tileoff a => issueTileoff a s
  | .evpost a b => issueEvpost a b s
  | .cpys a b c d e => issueCpys a b c d e s
  | .sncfgCreate a b c d e => issueSncfgCreate a b c d e s
  | .sncfgDestroy a b => issueSncfgDestroy a b s
  | .sncfgFlush a b => issueSncfgFlush a b s
  | .cpyb a b c d e => issueCpyb a b c d e s
  | .csrr a b => issueCsrr a b s
  | .csrw a b c => issueCsrw a b c s
  | .csrs a b c => issueCsrs a b c s
  | .csrc a b c => issueCsrc a b c s
  | .trap a => issueTrap a s
  | .eret => issueEret s
  | .sysc a => issueSysc a s
  | .pwrq a b => issuePwrq a b s
  | _ => .done id

/-! ### Held instructions and flags (R64 to R70) -/

/-- The level a stored LV names: 6 the innermost active one (R62, R70). -/
def Regs.flagLevel (g : Regs) (lv : Nat) : Option LevelNo :=
  if lv = 6 then (List.finRange 6).reverse.find? fun l => (g.lcs[l]).act
  else if h : lv < 6 then some ⟨lv, h⟩
  else none

/-- Does an instruction issue under its flags, or is it suppressed? -/
def Regs.lets (g : Regs) (h : Held) : Bool :=
  let edge : Bool × Bool := match g.flagLevel h.lv with
    | some l =>
      let v := g.lcs[l]
      if v.act then (v.cur == v.init, v.cur == 1) else (true, true)
    | none => (true, true)
  (!h.ins.f && !h.ins.l) || (h.ins.f && edge.1) || (h.ins.l && edge.2)

/-- The held instructions with which a bundle issues: those it encodes, and what the slots held, which D
clears before the first repetition. -/
def Regs.heldFor (g : Regs) (b : Bundle) : Vector Held 8 :=
  Vector.ofFn fun k : Fin 8 =>
    match b.items.find? fun e => e.1.index == k with
    | some e => ⟨e.2, b.lv⟩
    | none => if b.d && g.atFirst b then Held.nop else g.held[k]

/-- The instructions that issue, with their slots, in slot order. -/
def Regs.active (g : Regs) (held : Vector Held 8) : List (Slot × Instr) :=
  Slot.all.filterMap fun k =>
    let h := held[k.index]
    if h.ins.ins = .nop ∨ !g.lets h then none else some (k, h.ins.ins)

/-- The PC value of the bundle that follows `n` words, in the same bank (R63, R102; log 31). -/
def nextPc (pc : Word) (n : Nat) : Word := (pc &&& 0x8000) ||| ((pc + BitVec.ofNat 64 (4 * n)) &&& 0x7FFC)

/-! ### The checks of all slots (R72, R74, R75) -/

/-- The outcome of each slot on the state at the start of the clock; a mask-stack instruction of W stands
behind that of V (R153). -/
def State.outcomes (s : State) (is : List (Slot × Instr)) : List (Slot × Instr × Issue) :=
  is.map fun e =>
    let s0 := { s with slot := e.1 }
    let s1 := match e.1, is.find? fun v => v.1 == .V with
      | .W, some v => match maskOp s.cx.regs v.2 with
        | some k => if e.2 == .mpush || e.2 == .minv || e.2 == .mpop then s0.onRegs fun g => g.applyMask k else s0
        | none => s0
      | _, _ => s0
    (e.1, e.2, issueOf e.2 s1)

/-- What a bundle meets: a trap with its slot, a block with what blocks it, a stall, a rename move first, or
the effects of its slots with the failed check that takes their place where they find room, and the check of R166 that
fails where they find none. -/
inductive Verdict
  | trap (cause : Cause) (slot : Slot)
  | block (by_ : List Instr)
  | stall
  | move (names : List VReg)
  | go (effs : List (Slot × (State → Option State))) (bad : Option (Cause × Slot)) (combo : Option Slot)

/-- The trap of a slot's outcome. -/
def trapOf : Slot × Instr × Issue → Option (Cause × Slot)
  | (k, _, .trap c) => some (c, k)
  | _ => none

/-- The verdict on the outcomes of a bundle's slots: the check of R166 fails before all else; then block conditions
(R74), stalls (R75) and rename moves count, a register that a G access will still write holding the whole bundle back;
checks count in the clock in which nothing of that keeps the bundle from issuing, the first failing slot first (R72;
DESIGN CHOICE, log 77). -/
def State.verdict (s : State) (os : List (Slot × Instr × Issue)) (dsts : List VReg) : Verdict :=
  let blocks := (os.filter fun o => s.blocks o.2.1 o.2.2).map (·.2.1)
  let stalled := os.any fun o => s.scoreboarded o.2.1 || o.2.2.isStall
  let names := os.flatMap (fun o => insNames o.2.1) ++ dsts
  let moves := (s.tile s.curTile).needsMove s.curCtx names (os.filterMap (fun o => insWrite o.2.1) ++ dsts)
  let combo := (os.find? fun o => o.2.2.isCombination).map (·.1)
  let held := !blocks.isEmpty || stalled || moves
  match if held then combo else none with
  | some k => .trap .illegalCombination k
  | none =>
    if !blocks.isEmpty then .block blocks
    else if stalled then .stall
    else if moves then .move names
    else .go (os.filterMap fun o => match o.2.2 with
      | .ok e => some (o.1, e)
      | _ => none) (os.findSome? trapOf) combo

/-- Does the acting context still run: nothing has stopped it for good? -/
def State.alive (s : State) : Bool := s.cx.run != .stopped && s.cx.run != .free

/-- The effects in slot order; none where one finds no room. A write of a V name and a last use of it in one bundle act
in this order too (DESIGN CHOICE, log 18). -/
def State.applyEffects (s : State) : List (Slot × (State → Option State)) → Option State
  | [] => some s
  | e :: es =>
    if s.alive then match e.2 { s with slot := e.1 } with
      | some r => r.applyEffects es
      | none => none
    else some s

/-! ### The loop buffer (R112, R113) -/

/-- A register as it stands at the start of the next clock. -/
def Ctx.nextX (x : Ctx) (now : Nat) (r : XReg) : Word :=
  match (x.flight.filter fun f => decide (f.due ≤ now + 1) && f.dest == .x r).getLast? with
  | some f => f.val
  | none => x.regs.x r

/-- Does a G load still write an armed register of a nest: one in flight, or one that a trap entry recorded and ERET
will issue again (R306)? -/
def Ctx.armWaits (x : Ctx) (n : Nest) : Bool :=
  (List.finRange 6).any fun l => inNest n.lo n.hi l && match (x.regs.lcs[l]).arm with
    | some r => (x.gaccs.any fun g => insGX g.ins.ins == some r)
        || (match x.reinject with
          | some j => j.pend.any fun g => insGX g.ins.ins == some r
          | none => false)
    | none => false

/-- The levels whose arm breaks them. -/
def Ctx.broken (x : Ctx) (now : Nat) (n : Nest) (l : LevelNo) : Bool :=
  inNest n.lo n.hi l && match (x.regs.lcs[l]).arm with
    | some r => x.nextX now r != 0
    | none => false

/-- The bytes of the body of a nest. -/
def Nest.words (n : Nest) : Nat := (n.body.map (·.words)).sum

/-- The step of R113 at the end of a pass. -/
def Regs.endPass (g : Regs) (n : Nest) (hit : LevelNo → Bool) : Regs :=
  let ls : Vector Level 6 := Vector.ofFn fun m : Fin 6 =>
    if inNest n.lo n.hi m && (List.finRange 6).any fun l => decide (l ≤ m) && hit l then { g.lcs[m] with cur := 1 }
    else g.lcs[m]
  match (List.finRange 6).reverse.find? fun l => inNest n.lo n.hi l && decide (1 < (ls[l]).cur) with
  | none =>
    { g with
      lcs := g.lcs.map fun v => { v with act := false, cur := 0, arm := none }, nest := none,
      pc := nextPc n.start n.words }
  | some j =>
    { g with
      lcs := Vector.ofFn fun m : Fin 6 =>
        if m = j then { ls[m] with cur := (ls[m]).cur - 1 }
        else if inNest n.lo n.hi m && decide (j < m) then { ls[m] with cur := (ls[m]).init }
        else ls[m],
      as := Vector.ofFn fun i : Fin 16 => g.as[i] + (g.lstr[strideAt j i]).signExtend 64,
      nest := some { n with pos := 0, waiting := false }, pc := n.start }

/-- Does the end of a pass step a level, and with it write every address register (R113)? -/
def Regs.strides (g : Regs) (n : Nest) (hit : LevelNo → Bool) : Bool :=
  (List.finRange 6).any fun l => inNest n.lo n.hi l
    && !((List.finRange 6).any fun k => decide (k ≤ l) && hit k) && decide (1 < (g.lcs[l]).cur)

/-- The end of a pass: the step, or a wait for a load of an armed register. An AMOV that lands with the stride of its
register, be it 0, loses to it (R133). -/
def Ctx.passEnd (x : Ctx) (now : Nat) (n : Nest) : Ctx :=
  if x.armWaits n then { x with regs := { x.regs with nest := some { n with pos := 0, waiting := true }, pc := n.start } }
  else
    let y := if x.regs.strides n (x.broken now n) then (List.finRange 16).foldl (fun y a => y.dropAmov now a) x else x
    { y with regs := x.regs.endPass n (x.broken now n) }

/-- A nest that waits looks again. -/
def Ctx.resumeNest (x : Ctx) (now : Nat) : Ctx :=
  match x.regs.nest with
  | some n => if n.waiting then x.passEnd now n else x
  | none => x

/-- The nest after one of its bundles has issued: captured in the first pass, counted in a later one. -/
def Ctx.nestStep (x : Ctx) (now : Nat) (n : Nest) (b : Bundle) (npc : Word) : Ctx :=
  let m := if n.complete then { n with pos := n.pos + 1 }
    else
      let counted := n.counted + b.items.length
      { n with body := n.body ++ [b], counted := counted, complete := decide (n.n ≤ counted), pos := n.body.length + 1 }
  if m.complete ∧ m.body.length ≤ m.pos then x.passEnd now m
  else { x with regs := { x.regs with nest := some m, pc := npc } }

/-! ### Issue -/

/-- What came of a try: the bundle issued, blocked, stalled, or an event was taken in its place. -/
inductive Tried | issued | blocked | stalled | event
  deriving DecidableEq, Repr

/-- The context as its bundle issues, before its slots take effect. -/
def Ctx.issuing (x : Ctx) (b : Bundle) (held : Vector Held 8) (dmiss : Bool) : Ctx :=
  let g := x.regs
  { x with
    npc := some (nextPc g.pc b.words),
    regs := { g with held := held.set 0 Held.nop, dmiss := if dmiss then g.dmiss + 1 else g.dmiss },
    frame := x.frame.map fun f => { f with handlerIssued := true }, reached := false, commitWait := false, atEntry := false }

/-- Repetitions, the nest and the PC after the slots have taken effect (R69, R103, R112). An instruction that
has moved the context elsewhere, an ERET or a reset, leaves no next PC. Repetitions that ERET brought back count for
whatever bundle stands at TEPC (DESIGN CHOICE, log 52). -/
def Ctx.issued (x : Ctx) (now : Nat) (old : Regs) (b : Bundle) : Ctx :=
  match x.npc with
  | none => x
  | some npc =>
    let left := match old.rep with
      | some k => k - 1
      | none => b.rep
    let y := { x with npc := none }
    if 0 < left then { y with regs := { y.regs with rep := some left } }
    else
      let z := { y with regs := { y.regs with rep := none } }
      match old.nest with
      | some n => z.nestStep now n b npc
      | none => { z with regs := { z.regs with pc := npc } }

/-- A precise trap of a slot. -/
def State.trapBundle (s : State) (t : TileNo) (c : CtxNo) (b : Bundle) (cause : Cause) (k : Slot) : State :=
  (s.onCtx t c fun x => { x with regs := x.regs.faultAt b.rep }).takeTrap t c cause k.index.val 0
    (s.ctxAt t c).regs.pc false false

/-- What the bundle of the acting context meets at this clock. -/
def State.verdictOf (s : State) (t : TileNo) (c : CtxNo) (b : Bundle) : Verdict :=
  let x := s.ctxAt t c
  let held := x.regs.heldFor b
  let s0 := s.onCtx t c fun x => { x with npc := some (nextPc x.regs.pc b.words), regs := { x.regs with held := held } }
  s0.verdict (s0.outcomes (x.regs.active held)) x.latchNames

/-- Would the bundle of the acting context raise a trap of its own at this clock? -/
def State.wouldTrap (s : State) (t : TileNo) (c : CtxNo) (b : Bundle) : Bool :=
  match s.verdictOf t c b with
  | .trap .. => true
  | .go _ bad _ => bad.isSome
  | _ => false

/-- One try of the acting context to issue a bundle. -/
def State.tryBundle (s : State) (t : TileNo) (c : CtxNo) (b : Bundle) : State × Tried :=
  let x := s.ctxAt t c
  let now := (s.tile t).cycle
  let held := x.regs.heldFor b
  match s.verdictOf t c b with
  | .trap cause k => (s.trapBundle t c b cause k, .event)
  | .block is => (is.foldl (fun s i => s.blocked i) s, .blocked)
  | .stall => (s, .stalled)
  | .move names => (s.onTile t fun y => y.startMove c names, .stalled)
  | .go effs bad combo =>
    let dmiss := b.d && x.regs.atFirst b && !s.drained t c
    let s1 := (s.onCtx t c fun x => x.issuing b held dmiss).relaunchAll t c
    match s1.applyEffects effs with
    | none => match combo with
      | some k => (s.trapBundle t c b .illegalCombination k, .event)
      | none => (s, .stalled)
    | some s2 =>
      match bad with
      | some (cause, k) => (s.trapBundle t c b cause k, .event)
      | none =>
      if (s2.ctxAt t c).run = .free ∨ (s2.ctxAt t c).run = .stopped then (s2, .event)
      else ((s2.onCtx t c fun y => y.issued now x.regs b).beginWind t c, .issued)

/-! ### Segment entries at a bundle (R317) -/

/-- Is the bundle a D bundle at which a segment entry may stand: before its first repetition with LD = 0? -/
def State.entryPoint (s : State) (t : TileNo) (c : CtxNo) (b : Bundle) : Bool :=
  b.d && (s.ctxAt t c).regs.atFirst b && (s.ctxAt t c).regs.ld == 0

/-- The entry of a drained D bundle, made once, as the bundle is first tried drained (log 32). -/
def State.reach (s : State) (t : TileNo) (c : CtxNo) (b : Bundle) : State :=
  if s.entryPoint t c b ∧ s.drained t c ∧ !(s.ctxAt t c).reached then
    (s.enter t c).onCtx t c fun x => { x with reached := true }
  else s

/-- Does a bundle's WAITC block? -/
def State.waitBlocks (s : State) (t : TileNo) (c : CtxNo) (b : Bundle) : Bool :=
  b.items.any fun e => e.1 == .K && match e.2.ins with
    | .waitc n => !Bounds.within n (s.ctxAt t c).regs
    | _ => false

/-- The entry of a commit wait, made once. -/
def State.reachWait (s : State) (t : TileNo) (c : CtxNo) (b : Bundle) : State :=
  if s.entryPoint t c b ∧ s.waitBlocks t c b ∧ s.drainedButCp t c ∧ !(s.ctxAt t c).commitWait then
    (s.enter t c).onCtx t c fun x => { x with commitWait := true }
  else s

end Sys2Proof.Machine
end

