-- ==== Sys2Proof/Machine/Rollback.lean ====
section
/-! DEFINITION. Segment commits, strike rollback, known-answer mismatches and the watchdog (R317 to R324). -/

namespace Sys2Proof.Machine

/-- SEGMENT_COMMIT: the entries due commit, and what they held goes out. -/
def execSegmentCommit (t : TileNo) (c : CtxNo) (s : State) : Out := .next (s.commitEntries t c)

/-! ### The target of a rollback (R321) -/

/-- The entry a context rolls back to: the most recent committed one, or the start of its task. -/
def Ctx.target (x : Ctx) : Option SegEntry :=
  match (x.segs.filter fun e => e.committed).getLast? with
  | some e => some e
  | none => x.segs.head?

/-- Does a context run a task that a strike finds under way? One that the Ballast has stopped does until the entry of
its stop commits (R325). -/
def Ctx.strikable (x : Ctx) : Bool :=
  x.run == .bound || x.run == .halted || x.run == .winding || x.run == .saving
    || (x.run == .stopped && x.segs.any fun e => !e.committed)

/-- Is something exposed behind the target: the running segment, or one that ended after it? -/
def Ctx.exposedPast (x : Ctx) : Bool :=
  x.exposed || match x.target with
    | some e => x.segs.any fun f => decide (e.seg < f.seg) && f.afterExposed
    | none => false

/-- Has the entry that a task's end makes committed, so that nothing is left to roll back? -/
def Ctx.ended (x : Ctx) : Bool := x.run == .winding && x.segs.all fun e => e.committed

/-- Does a context roll back, and to which segment on? -/
def Ctx.rollSeg (x : Ctx) : Option Nat :=
  if x.strikable && !x.ended && !x.exposedPast then x.target.map (·.seg) else none

/-! ### Undoing (R319) -/

/-- The bytes of a unit with the old ones put back, but for those written since by another agent. -/
def keepNewer (old now : List Byte) (newer : BitVec 64) : List Byte :=
  (List.range 64).map fun i => if newer.getLsbD i then now.getD i 0 else old.getD i 0

/-- A unit of the scratchpad put back, with the poison that stood over it. -/
def Tile.undoUnit (x : Tile) (o : Nat) (old : List Byte) (newer : BitVec 64) (bad : Bool) : Tile :=
  { x with
    sp := Mem.writeBytes x.sp o (keepNewer old (Mem.readBytes x.sp o 64) newer),
    spPoison := if bad then markRegion x.spPoison (o / 64)
      else if newer = 0 then x.spPoison.filter (· != o / 64) else x.spPoison }

/-- A record of the log taken back. -/
def Tile.undoOne (x : Tile) (u : Undo) : Tile :=
  match u.kind with
  | .scratch o old newer => x.undoUnit o old newer u.bad
  | .stale o old newer => x.undoUnit o old newer u.bad
  | .bay n old => x.onBay n fun _ => old
  | .rt n old => x.setCtx u.ctx { x.ctxs[u.ctx] with rts := (x.ctxs[u.ctx]).rts.set n old }
  | .vreg _ _ => x

/-- Does a record belong to what a rollback takes back? -/
def Tile.rolls (x : Tile) (u : Undo) : Bool :=
  match (x.ctxs[u.ctx]).rollSeg with
  | some n => decide (n ≤ u.seg)
  | none => false

/-- The value of a V name at the target: the oldest record of the log, or its value now. -/
def Tile.oldV (x : Tile) (c : CtxNo) (seg : Nat) (n : VReg) : VImage :=
  match x.undo.find? fun u => u.ctx == c && decide (seg ≤ u.seg) && (match u.kind with
    | .vreg m _ => m == n
    | _ => false) with
  | some u => match u.kind with
    | .vreg _ old => old
    | _ => x.vreg c n
  | none => x.vreg c n

/-- The values a checkpoint's rename map names. -/
def Tile.oldVals (x : Tile) (c : CtxNo) (e : SegEntry) : List (VReg × VImage) :=
  (List.finRange 32).filterMap fun n => if e.regs.vmap[n] = .unmapped then none else some (n, x.oldV c e.seg n)

/-! ### What a rollback takes from a context -/

/-- Is a command taken back: held, or a CFEED, and issued after the entry? -/
def Cmd.rolledBack (k : Cmd) (c : CtxNo) (tid seg : Nat) : Bool :=
  k.ctx == c && k.tid == tid && decide (seg ≤ k.seg) && (k.stat == .held || match k.ins.ins with
    | .cfeed .. => true
    | _ => false)

/-- Is a poisoned record of the log that is not one of the scratchpad, so that the context which takes it back consumes
poison (R323, R394)? -/
def Undo.spoils (u : Undo) : Bool :=
  u.bad && match u.kind with
    | .scratch .. => false
    | .stale .. => false
    | _ => true

/-- A record of a frame that the rollback brings back: one still outstanding when the entry was made, and
resolved since, is issued again. -/
def GAcc.revive (now : List GAcc) (g : GAcc) : GAcc :=
  match now.find? fun k => k.id == g.id with
  | some k => k
  | none => if g.stat = .outstanding then { g with stat := .replay } else g

/-- The context at its target: registers, status slots, CSRs but DMISS (R300), loop state and mask stack from the
checkpoint, nothing in flight but the accesses issued before it, the streams empty, the traps taken since raised again,
with the count of deferred faults lost. A record that the target's frame or ERET issues again is no access any more. One
that the Ballast had stopped stays so (R35). -/
def Ctx.rolled (x : Ctx) (e : SegEntry) (cp resume cycle : Nat) : Ctx :=
  let since := fun (n : Nat) => decide (e.seg ≤ n)
  let ints := (x.tookInts.filter fun q => since q.1).map (·.2)
  let recs := (x.tookDefer.filter fun q => since q.1).map (·.2) ++ x.dq
  let lost := ((x.tookDovf.filter fun q => since q.1).map (·.2)).sum + (recs.length - 32)
  let again := ((e.frame.map (·.pend)).getD [] ++ (e.reinject.map (·.pend)).getD []).map (·.id)
  { x with
    regs := { e.regs with
      dmiss := x.regs.dmiss, vmap := x.regs.vmap, ld := 0, st := 0, tok := 0,
      cp := x.regs.cp - cp },
    rts := x.rts.map fun r => { r with busy := false }, af := [], bf := [], mq := [], mops := [], flight := [],
    gaccs := (x.gaccs.filter fun g => decide (g.id < e.firstId) && !again.contains g.id).map fun g => { g with uncounted := true },
    frame := e.frame.map fun f => { f with pend := f.pend.map (GAcc.revive x.pend) }, reinject := e.reinject,
    dq := recs.take 32, dovf := min 255 (x.dovf + lost), ints := x.ints ++ ints.filter fun n => !x.ints.contains n,
    tookInts := x.tookInts.filter fun q => !since q.1, tookDefer := x.tookDefer.filter fun q => !since q.1,
    tookDovf := x.tookDovf.filter fun q => !since q.1,
    run := if x.run = .stopped then .stopped else .bound, npc := none, resumeAt := cycle + resume, yielded := false, afterIssue := none, endWait := none,
    seg := e.seg, exposed := false, hold := x.hold.filter fun h => decide (h.seg < e.seg),
    segs := [if e.committed then e else { e with commitAt := cycle + resume + 40 }], reached := false,
    commitWait := false, atEntry := true, preempt := false }

/-- The pool entry a wait had reserved is free again. -/
def State.freeWait (s : State) (t : TileNo) (x : Ctx) : State :=
  match x.endWait, s.partOf t with
  | some (some w), some p => s.onPart p fun y => { y with conts := Map.erase y.conts w.idx }
  | _, _ => s

/-- The bank reservation of a copy that is gone ends (R215). -/
def Tile.unreserve (x : Tile) (k : Cmd) : Tile :=
  { x with banks := x.banks.map fun b => { b with resv := b.resv.filter (· != (k.tid, k.id)) } }

/-- Is the task a context runs resumable: its kernel is, NRES is clear, and no pending G record stands (R326, R327)? -/
def Ctx.resumable (x : Ctx) : Bool :=
  (x.task.map (·.resumable)).getD false && !x.regs.nres && x.pendings.isEmpty && x.pend.isEmpty

/-- What the stop of a context recorded, once it is rolled back to `x`: the commands issued before the entry (R35, R325),
and whether its task is resumable as it then stands (R329). -/
def CtxSave.rolled (v : CtxSave) (seg : Nat) (x : Ctx) : CtxSave :=
  let ks := v.cmds.filter fun k => decide (k.seg < seg)
  { v with state := if ks.isEmpty then 1 else 2, mats := [], cmds := ks, resumable := x.resumable }

/-- One context rolled back; the log has been taken back already, and `vals` are the values of its names. -/
def State.rollCtx (s : State) (t : TileNo) (c : CtxNo) (e : SegEntry) (vals : List (VReg × VImage)) : State :=
  let x := s.ctxAt t c
  let tid := (x.task.map (·.tid)).getD 0
  let gone := (s.tile t).cmds.filter fun k => k.rolledBack c tid e.seg
  let cp := gone.length + (x.hold.filter fun h => decide (e.seg ≤ h.seg) && h.counts).length
  let s0 := gone.foldl (fun s k => s.onTile t fun y => (y.returnBays t k).unreserve k) s
  let s1 := (s0.freeWait t x).onTile t fun y =>
    let y1 := (y.freeNames c).setCtx c (((y.freeNames c).ctxs[c]).rolled e cp (s.delay 0 256) y.cycle)
    let y2 := y1.restoreNames c e.regs.vmap vals
    { y2 with
      cmds := y2.cmds.filter fun k => !k.rolledBack c tid e.seg, redo := y2.redo.filter fun k => k.2.ctx != c,
      resume := y2.resume.map fun r => { r with ctxs := r.ctxs.set c ((r.ctxs[c]).map fun v => v.rolled e.seg (y2.ctxs[c])) } }
  match s.partOf t with
  | some p => s1.drew.countErr p 3
  | none => s1.drew

/-- The contexts of a tile rolled back: the log in reverse order first, then each context. -/
def State.rollTile (s : State) (t : TileNo) : State :=
  let x := s.tile t
  let todo := allCtxs.filterMap fun c => match (x.ctxs[c]).rollSeg, (x.ctxs[c]).target with
    | some _, some e => some (c, e, x.oldVals c e)
    | _, _ => none
  let back := x.undo.reverse.filter x.rolls
  let y := back.foldl Tile.undoOne x
  let s1 := todo.foldl (fun s q => s.rollCtx t q.1 q.2.1 q.2.2)
    (s.setTile t { y with undo := x.undo.filter fun u => !x.rolls u, spill := none })
  match back.find? Undo.spoils with
  | some u => s1.poisonTask t u.ctx
  | none => s1

/-- STRIKE_REPORT: a context that is exposed is poisoned; the others roll back. -/
def execStrikeReport (t : TileNo) (s : State) : Out :=
  match allCtxs.find? fun c => (s.ctxAt t c).strikable && !(s.ctxAt t c).ended && (s.ctxAt t c).exposedPast with
  | some c => .next (s.condemn t c)
  | none => .next (s.rollTile t)

/-! ### Known-answer mismatches and the watchdog (R322, R324) -/

/-- KNOWN_ANSWER_MISMATCH: a test has failed; the tile is quarantined, and the tasks on its contexts are poisoned. The
PF counts the failure of a tile of no partition too (R382). -/
def execKnownAnswerMismatch (t : TileNo) (s : State) : Out :=
  let s1 := s.onTile t fun x => { x with quarantined := true, tests := x.tests + 1, fails := x.fails + 1 }
  match s.partOf t with
  | none => .next (s1.onFunc 0 (·.count 4))
  | some p =>
    let s2 := (s1.countErr p 4).postPart p 0x004 (BitVec.ofNat 64 t.val) true 0 0
    match allCtxs.find? fun c => (s.ctxAt t c).run != .free with
    | some c => .next (s2.condemn t c)
    | none => .next s2

/-- Has a context held the issue turn for its partition's watchdog period without issuing (R359)? -/
def State.watchdogDue (s : State) (t : TileNo) (c : CtxNo) : Bool :=
  match s.partOf t with
  | some p =>
    let x := s.ctxAt t c
    x.run == .bound && (s.part p).wdog != 0 && decide (nanos (1000 * (s.part p).wdog) ≤ x.turnClocks)
  | none => false

/-- WATCHDOG_EXPIRY: the partition is reset. -/
def execWatchdogExpiry (t : TileNo) (c : CtxNo) (s : State) : Out :=
  if s.watchdogDue t c then match s.partOf t with
    | some p => .next (s.resetPartition p 2)
    | none => .next s
  else .next s

end Sys2Proof.Machine
end

