-- ==== Sys2Proof/Machine/Queue.lean ====
section
/-! DEFINITION. The command queues (R343 to R346), the acceptance and completion of launches (R347, R358) and the
time-triggered table (R363, R364). -/

namespace Sys2Proof.Machine

/-! ### Commands (R344) -/

/-- A ring entry. -/
structure QCmd where
  op : Nat
  pro : Bool
  tag : BitVec 32
  addr1 : Word
  addr2 : Word
  words : Vector Word 8
  deriving DecidableEq, Repr

/-- A ring entry from its bytes; none for BAD_COMMAND. -/
def parseCmd (bs : List Byte) : Option QCmd :=
  let op := leAt bs 0 1
  let flags := leAt bs 1 1
  if op ≤ 4 ∧ flags < 2 ∧ (flags = 0 ∨ op = 1) ∧ zeroAt bs 2 2 ∧ zeroAt bs 24 40 ∧ (op = 1 ∨ zeroAt bs 64 64) then
    some ⟨op, flags == 1, BitVec.ofNat 32 (leAt bs 4 4), BitVec.ofNat 64 (leAt bs 8 8), BitVec.ofNat 64 (leAt bs 16 8),
      Vector.ofFn fun i : Fin 8 => BitVec.ofNat 64 (leAt bs (64 + 8 * i.val) 8)⟩
  else none

def State.queue (s : State) (f : FuncNo) (q : QueueNo) : Queue := (s.func f).queues[q]
def State.onQueue (s : State) (f : FuncNo) (q : QueueNo) (g : Queue → Queue) : State :=
  s.onFunc f fun x => { x with queues := x.queues.set q (g x.queues[q]) }

/-- The entries between HEAD and TAIL. -/
def Queue.depth (x : Queue) : Nat := (x.tail - x.head).toNat

/-- The ring address of the entry at HEAD. -/
def Queue.front (x : Queue) : Nat :=
  (x.base.extractLsb' 12 40).toNat * 4096 + 128 * (x.head.toNat % 2 ^ x.log2.toNat)

/-- The 128 bytes of the entry at HEAD. -/
def State.frontBytes (s : State) (p : PartNo) (x : Queue) : Option (List Byte) :=
  if x.host then some (s.homeRead (.host x.front) 128) else s.hubRead p x.front 128

/-- What stands at the head of a queue: nothing to serve, an error with its code and the entry's tag, or a command. -/
inductive Front
  | idle
  | bad (code tag : Nat)
  | cmd (k : QCmd)

def State.frontOf (s : State) (f : FuncNo) (q : QueueNo) : Front :=
  let x := s.queue f q
  match (s.func f).part with
  | none => .idle
  | some p =>
    if x.state ≠ .running ∨ x.depth = 0 then .idle
    else if 2 ^ x.log2.toNat < x.depth then .bad 5 0
    else match s.frontBytes p x with
    | none => .bad 4 0
    | some bs => match parseCmd bs with
      | some k => .cmd k
      | none => .bad 1 (leAt bs 4 4)

/-- A queue goes to ERROR before the offending entry, with its event (R346). -/
def State.queueError (s : State) (f : FuncNo) (q : QueueNo) (code tag : Nat) : State :=
  (s.onQueue f q fun x => { x with state := .error, ecode := BitVec.ofNat 8 code }).post f 0x001
    (BitVec.ofNat 64 (q.val + code * 256)) true 0 tag

/-- HEAD advances past an accepted command, and the function's queues are looked at again. -/
def State.advance (s : State) (f : FuncNo) (q : QueueNo) : State :=
  (s.onQueue f q fun x => if x.state = .running then { x with head := x.head + 1 } else x).serve f

/-! ### Signals a queue waits on (R345) -/

/-- The value a WAITS reads: with the effect of ACQ.PART, so that the object's line is a sync-object line. -/
def State.waitsRead (s : State) (p : PartNo) (a : Word) : Option (State × Word) :=
  match s.translate p a.toNat false with
  | .ok h =>
    if a.toNat % 16 ≠ 0 then none
    else
      let s1 := s.makeSync p a.toNat h none
      some (s1, s1.readQ h)
  | .error _ => none

/-- Does a WAITS meet its threshold now? -/
def State.waitsMet (s : State) (p : PartNo) (k : QCmd) : Bool :=
  match s.waitsRead p k.addr1 with
  | some (_, v) => decide (k.addr2.toNat ≤ v.toNat)
  | none => true

/-- A WAITS that is not met is read again within 1 µs. -/
def State.rereadLater (s : State) (f : FuncNo) (q : QueueNo) : State :=
  if s.agenda.any fun d => d.ev == .waitsReread f q then s
  else s.sched (nanos 1) (nanos 1000) 900 (.waitsReread f q)

/-! ### Which queue is served (R345) -/

/-- Does the Gondola serve a partition's function: the package in RUN with a valid bitstream (R377, R398), no
pause, power loss or FLR under way (R325, R329, R379, R393), the function's interface not in ERROR (R378)? -/
def State.gondolaServes (s : State) (f : FuncNo) (p : PartNo) : Bool :=
  s.pkg.state == .run && s.pkg.gondola == .valid && !(s.part p).paused && (s.part p).resume.isNone
    && !(s.func f).resetting && (s.func f).tdisp != .error

/-- May the command at the head of a queue be accepted now, or its error be raised? A host ring of a protected
partition does not advance before RUN (R378). -/
def State.acceptable (s : State) (f : FuncNo) (p : PartNo) (q : QueueNo) : Bool :=
  s.gondolaServes f p && !((s.queue f q).host && s.linkBarred p) && match s.frontOf f q with
  | .idle => false
  | .bad _ _ => true
  | .cmd k =>
    if k.op = 1 then (if k.pro then s.prologue.isNone else (s.freeSlot p).isSome)
    else if k.op = 3 then s.waitsMet p k
    else if k.op = 0 then true
    else (s.queue f q).open_.isEmpty && !(s.prologue.any fun g => g.origin == .queue f q)

/-- The queues in round-robin order, from the one after the last served. -/
def Func.turnOrder (x : Func) : List QueueNo :=
  (List.range 16).map fun i => Fin.ofNat 16 (x.lastServed.val + 1 + i)

/-- The queue that is served next: the highest priority, in round-robin order among equals. -/
def State.pickQueue (s : State) (f : FuncNo) (p : PartNo) : Option QueueNo :=
  let qs := (s.func f).turnOrder.filter fun q => s.acceptable f p q &&
    !(s.prologue.any fun g => g.origin == .queue f q)
  match qs with
  | [] => none
  | q :: qs => some (qs.foldl (fun m r => if (s.queue f m).prio < (s.queue f r).prio then r else m) q)

/-- Is `q` the queue that is served now, with a command of opcode `op` at its head? -/
def State.serving (s : State) (f : FuncNo) (q : QueueNo) (op : Nat) : Option (PartNo × QCmd) :=
  match (s.func f).part with
  | none => none
  | some p =>
    if s.pickQueue f p = some q then match s.frontOf f q with
      | .cmd k => if k.op = op then some (p, k) else none
      | _ => none
    else none

def State.served (s : State) (f : FuncNo) (q : QueueNo) : State := s.onFunc f fun x => { x with lastServed := q }

/-- Every queue that waits on a signal has its next read due. -/
def State.rereadAll (s : State) (f : FuncNo) (p : PartNo) : State :=
  (List.finRange 16).foldl (fun s q => match s.frontOf f q with
    | .cmd k => if k.op = 3 ∧ !s.waitsMet p k then s.rereadLater f q else s
    | _ => s) s

/-- QUEUE_NOP: the command at the head of the queue that is served: a NOP is accepted at once, an error is
raised, and any other command takes its own step. -/
def execQueueNop (f : FuncNo) (_q : QueueNo) (s : State) : Out :=
  match (s.func f).part with
  | none => .next s
  | some p =>
    let s0 := s.rereadAll f p
    match s0.pickQueue f p with
    | none => .next s0
    | some q => match s0.frontOf f q with
      | .idle => .next s0
      | .bad code tag => .next ((s0.served f q).queueError f q code tag |>.serve f)
      | .cmd k =>
        if k.op = 0 then .next ((s0.served f q).advance f q)
        else if k.op = 1 then .next (s0.schedAt s.now 900 (.launch f q))
        else if k.op = 2 then .next (s0.schedAt s.now 900 (.fence f q))
        else if k.op = 3 then .next (s0.schedAt s.now 900 (.waits f q))
        else .next (s0.schedAt s.now 900 (.signal f q))

/-! ### Launches (R347) -/

/-- A launch accepted: its slot, its ranges, its tiles woken, but for quarantined ones (R388); none where the table is
full. -/
def State.acceptLaunch (s : State) (p : PartNo) (d : Desc) (descAddr : Nat) (words : Vector Word 8) (o : Origin)
    (tag : BitVec 32) : Option State :=
  match s.freeSlot p with
  | none => none
  | some i =>
    let g := s.slotGen p i
    let l : Launch :=
      { desc := d, descAddr := descAddr, words := words, total := d.total, origin := o, readyAt := s.now,
        ranges := s.rootRanges p d d.total, noMore := false, tag := tag }
    let s1 := s.setSlot p i (some (.launch l)) g
    let s2 := match o with
      | .queue f q => s1.onQueue f q fun x => { x with open_ := x.open_ ++ [(i, g)] }
      | .table _ _ => s1
    some ((((s.wakeTiles p d).filter fun t => !(s.tile t).quarantined).foldl (fun s t => s.wake t) s2).kick p)

/-- The error code of a descriptor that is refused. -/
def DescErr.code : DescErr → Nat
  | .malformed => 2
  | .translation => 4

/-! ### The time-triggered table (R363) -/

/-- The address of a table entry. -/
def State.ttAddr (s : State) (p : PartNo) (e : Fin 64) : Nat := (s.part p).ttab + 64 * e.val

/-- A table entry's bytes. -/
def State.ttRead (s : State) (p : PartNo) (e : Fin 64) : Option (List Byte) :=
  s.hubRead p (s.ttAddr p e) 64

/-- CTL of a table entry changed. -/
def State.ttCtl (s : State) (p : PartNo) (e : Fin 64) (f : Byte → Byte) : State :=
  match s.ttRead p e with
  | some bs => s.hubWrite p (s.ttAddr p e + 24) [f (bs.getD 24 0)]
  | none => s

/-- Is a command that a table entry released under way: not yet accepted, in the prologue engine, or a launch that is
not complete? -/
def State.ttRunning (s : State) (p : PartNo) (e : Fin 64) : Bool :=
  let mine := fun (o : Origin) => match o with
    | .table k _ => k == e
    | _ => false
  (s.part p).ttOpen.contains e || (s.prologue.any fun g => g.part == p && mine g.origin)
    || (s.part p).tasks.any fun x => match x.2.use with
      | some (.launch l) => mine l.origin
      | _ => false

/-- A table entry released: BUSY stands, and its command waits to be accepted. -/
def State.ttRelease (s : State) (p : PartNo) (e : Fin 64) : State :=
  ((s.ttCtl p e fun b => b ||| 0x40).onPart p fun x => { x with ttOpen := x.ttOpen ++ [e] }).schedAt s.now 900 (.ttRelease p e)

/-- Where nothing that a table entry released is under way any more, BUSY falls, and a held release goes out. -/
def State.ttComplete (s : State) (p : PartNo) (e : Fin 64) : State :=
  if s.ttRunning p e then s
  else match s.ttRead p e with
  | none => s
  | some bs =>
    let s1 := s.ttCtl p e fun b => b &&& 0x9F
    if (bs.getD 24 0).getLsbD 5 then s1.ttRelease p e else s1

/-- A fault of a table entry's command disables the entry, with its event; BUSY stands until what the command launched is
complete. -/
def State.ttError (s : State) (p : PartNo) (e : Fin 64) (code tag : Nat) : State :=
  ((s.ttCtl p e fun b => b &&& 0xFE).postPart p 0x001 (BitVec.ofNat 64 (e.val * 2 ^ 16 + 2 ^ 31 + code * 256)) true 0 tag).ttComplete p e

/-- The error of a command, at the queue or the table entry it came from. -/
def State.originError (s : State) (p : PartNo) (o : Origin) (code tag : Nat) : State :=
  match o with
  | .queue f q => s.queueError f q code tag
  | .table e _ => s.ttError p e code tag

/-- The prologue engine starts on a LAUNCH command (R348); its image is what stands at ADDR2. -/
def State.startPrologue (s : State) (f : FuncNo) (p : PartNo) (o : Origin) (k : QCmd) : State :=
  let a := k.addr2.toNat
  match s.hubRead p a 1024 with
  | none => s.originError p o 4 k.tag.toNat
  | some bs =>
    if a % 256 ≠ 0 then s.originError p o 3 k.tag.toNat
    else
      let g := Regs.start 0
      let xs := (List.finRange 8).foldl (fun (g : Regs) i => g.setX (Fin.ofNat 32 (i.val + 1)) k.words[i]) g
      let r : Prologue :=
        { func := f, origin := o, part := p, ctx := { Ctx.start with run := .bound, regs := xs }, cycle := 0,
          image := Mem.writeBytes [] 0 bs, size := 1024, descAddr := k.addr1.toNat, words := k.words, tag := k.tag,
          bundles := 0, emits := 0, holds := [], ended := false, fault := false }
      { s with prologue := some r }.schedAt (s.now + nanos 1) 900 (.prologue f)

/-- A LAUNCH command accepted from a queue or the table; none where the acceptance waits. With a prologue
the command stays at the head until the prologue ends. -/
def State.launchCmdFrom (s : State) (f : FuncNo) (p : PartNo) (o : Origin) (k : QCmd) : Option (State × Bool) :=
  if k.pro then (if s.prologue.isSome then none else some (s.startPrologue f p o k, false))
  else match s.readDesc p k.addr1.toNat with
  | .error e => some (s.originError p o (DescErr.code e) k.tag.toNat, false)
  | .ok d => (s.acceptLaunch p d k.addr1.toNat k.words o k.tag).map fun s => (s, true)

/-- LAUNCH. -/
def execLaunch (f : FuncNo) (q : QueueNo) (s : State) : Out :=
  match s.serving f q 1 with
  | none => .next s
  | some (p, k) => match (s.served f q).launchCmdFrom f p (.queue f q) k with
    | none => .next s
    | some (s1, true) => .next (s1.advance f q)
    | some (s1, false) => .next (s1.serve f)

/-- FENCE: the fence word is written at its home, FIDX and HEAD move. -/
def execFence (f : FuncNo) (q : QueueNo) (s : State) : Out :=
  match s.serving f q 2 with
  | none => .next s
  | some (p, k) =>
    let a := k.addr1.toNat
    if s.canWrite p a 8 then
      let s1 := ((s.served f q).hubWrite p a (bytesOfNat 8 k.addr2.toNat)).markDirty p a 8
      .next ((s1.onQueue f q fun x => { x with fidx := x.head + 1 }).advance f q)
    else .next ((s.served f q).queueError f q 4 k.tag.toNat |>.serve f)

/-- WAITS, once its threshold is met. -/
def State.takeWaits (s : State) (f : FuncNo) (q : QueueNo) (p : PartNo) (k : QCmd) : State :=
  match s.waitsRead p k.addr1 with
  | none => ((s.served f q).queueError f q 4 k.tag.toNat).serve f
  | some (s1, v) => if k.addr2.toNat ≤ v.toNat then (s1.served f q).advance f q else s1.rereadLater f q

def execWaits (f : FuncNo) (q : QueueNo) (s : State) : Out :=
  match s.serving f q 3 with
  | none => .next s
  | some (p, k) => .next (s.takeWaits f q p k)

/-- WAITS_REREAD: the object read again; a value that meets the threshold lets the queue be served. -/
def execWaitsReread (f : FuncNo) (q : QueueNo) (s : State) : Out :=
  match (s.func f).part, s.frontOf f q with
  | some p, .cmd k =>
    if k.op ≠ 3 then .next s
    else if s.waitsMet p k then (if s.pickQueue f p = some q then .next (s.takeWaits f q p k) else .next (s.serve f))
    else .next (s.rereadLater f q)
  | _, _ => .next s

/-- SIGNAL: the step of R123. -/
def execSignal (f : FuncNo) (q : QueueNo) (s : State) : Out :=
  match s.serving f q 4 with
  | none => .next s
  | some (p, k) => match (s.served f q).signalAt p k.addr1 k.addr2 with
    | .ok s1 => .next (s1.advance f q)
    | .error _ => .next ((s.served f q).queueError f q 4 k.tag.toNat |>.serve f)

/-! ### Notify and configuration writes (R343) -/

/-- Does a write to a function's registers reach them: the package in RUN, no FLR under way, and a PCIe link that BOOT has
not found failed (R325, R379, R398, R399)? -/
def State.hears (s : State) (f : FuncNo) : Bool :=
  s.pkg.state == .run && !(s.func f).resetting && !s.pkg.failed.contains .pcie

/-- QTAIL. -/
def execQtail (f : FuncNo) (q : QueueNo) (v : Word) (s : State) : Out :=
  if !s.hears f then .next s
  else
    let s1 := s.onQueue f q fun x => { x with tail := v.extractLsb' 0 32 }
    if (s1.queue f q).state = .running ∧ (s1.queue f q).depth ≠ 0 ∧ (s1.func f).part.isSome then .next (s1.serve f)
    else .next s1

/-- A write to a locked register of a locked interface: it is not performed, and the interface goes to ERROR,
which resets the partition (R378, log 33). -/
def State.lockBroken (s : State) (f : FuncNo) : State :=
  match (s.func f).part with
  | some p => s.resetPartition p 4
  | none => s.onFunc f fun x => { x with tdisp := .error, queues := x.queues.map Queue.disable }

/-- Is a function's interface locked (R378)? -/
def Func.isLocked (x : Func) : Bool := x.tdisp == .locked || x.tdisp == .run

/-- QCFG as a write leaves it. -/
def Queue.configure (x : Queue) (v : Word) : Queue :=
  let en := v.getLsbD 8
  let log := (v.extractLsb' 0 5).toNat
  let y := { x with prio := v.extractLsb' 5 3 }
  let z := if x.state = .running then y
    else { y with host := v.getLsbD 9, log2 := if 4 ≤ log ∧ log ≤ 16 then BitVec.ofNat 5 log else x.log2 }
  if !en then { z with state := .disabled } else if x.state = .disabled then { z with state := .running } else z

/-- Would a write of QCFG change LOG2 or HOST? -/
def Queue.relocates (x : Queue) (v : Word) : Bool := v.getLsbD 9 != x.host || v.extractLsb' 0 5 != x.log2

/-- QCFG: in ERROR every queue stays DISABLED (R378). -/
def execQcfg (f : FuncNo) (q : QueueNo) (v : Word) (s : State) : Out :=
  if !s.hears f ∨ (s.pkg.gondola = .recovery ∧ v.getLsbD 8) then .next s
  else if (s.func f).isLocked ∧ (s.queue f q).relocates v then .next (s.lockBroken f)
  else
    let s1 := s.onQueue f q fun x => x.configure (if (s.func f).tdisp = .error then v &&& ~~~(0x100 : Word) else v)
    if (s1.func f).part.isSome then .next (s1.serve f) else .next s1

/-! ### Releases of the table (R364) -/

/-- The command of a released entry accepted, or its error raised: none where the acceptance waits for a slot or for the
prologue engine. -/
def State.ttStart (s : State) (p : PartNo) (e : Fin 64) (bs : List Byte) : Option State :=
  let prio := BitVec.ofNat 3 (leAt bs 24 1 / 4)
  match s.hubRead p (leAt bs 16 8) 128 with
  | none => some (s.ttError p e 4 0)
  | some cs => match parseCmd cs with
    | none => some (s.ttError p e 1 0)
    | some k =>
      if k.op ≠ 1 then some (s.ttError p e 1 k.tag.toNat)
      else (s.launchCmdFrom (s.funcOf p) p (.table e prio) k).map (·.1)

/-- The released entries whose commands wait are accepted in order of release, as far as they can be. -/
def State.ttAccept (s : State) (p : PartNo) : List (Fin 64) → State
  | [] => s
  | e :: es =>
    let open_ := fun (s : State) (l : List (Fin 64)) => s.onPart p fun x => { x with ttOpen := l }
    match s.ttRead p e with
    | none => s
    | some bs => match (open_ s es).ttStart p e bs with
      | some s1 => s1.ttAccept p es
      | none => s

/-- What a release time does to one entry: a release, HELD, or a skip; then NEXT moves on or EN falls. -/
def State.ttFire (s : State) (p : PartNo) (e : Fin 64) (bs : List Byte) : State :=
  let ctl : Byte := bs.getD 24 0
  let s1 := if !ctl.getLsbD 6 then s.ttRelease p e
    else if ctl.getLsbD 1 ∧ !ctl.getLsbD 5 then s.ttCtl p e fun b => b ||| 0x20
    else s.hubWrite p (s.ttAddr p e + 28) (bytesOfNat 4 (min (leAt bs 28 4 + 1) (2 ^ 32 - 1)))
  if leAt bs 8 8 = 0 then s1.ttCtl p e fun b => b &&& 0xFE
  else s1.hubWrite p (s1.ttAddr p e) (bytesOfNat 8 (leAt bs 0 8 + leAt bs 8 8))

/-- Is an entry enabled, and its release due? -/
def State.ttDue (s : State) (p : PartNo) (e : Fin 64) : Option (List Byte) :=
  match s.ttRead p e with
  | some bs => if (bs.getD 24 0).getLsbD 0 ∧ leAt bs 0 8 ≤ s.time then some bs else none
  | none => none

/-- The entries that are due, each with its NEXT. -/
def State.ttDues (s : State) (p : PartNo) : List (Fin 64 × Nat) :=
  (List.finRange 64).filterMap fun e => (s.ttDue p e).map fun bs => (e, leAt bs 0 8)

/-- Release times that have come, one each, in order of NEXT and for one time in order of the entries, `n` at most. -/
def State.ttFireAll (s : State) (p : PartNo) : Nat → State
  | 0 => s
  | n + 1 => match s.ttDues p with
    | [] => s
    | d :: ds =>
      let e := (ds.foldl (fun m k => if k.2 < m.2 then k else m) d).1
      match s.ttDue p e with
      | some bs => (s.ttFire p e bs).ttFireAll p n
      | none => s

/-- The table looked at again within 1 µs: entry 0's event stands for the table's watch of all of them. -/
def State.ttWatch (s : State) (p : PartNo) : State :=
  if !(s.part p).live ∨ (s.agenda.any fun d => d.ev == .ttRelease p 0) then s
  else s.sched (nanos 1) (nanos 900) 900 (.ttRelease p 0)

/-- TT_RELEASE: released commands that wait are accepted where they can be, and an entry whose release is due acts; entry
0's step acts for every entry, and stands again within 1 µs. -/
def execTtRelease (p : PartNo) (e : Fin 64) (s : State) : Out :=
  let s0 := if e = 0 then s.ttWatch p else s
  if !s0.gondolaServes (s0.funcOf p) p then .next s0
  else
    let s1 := s0.ttAccept p (s0.part p).ttOpen
    if e = 0 then .next (s1.ttFireAll p 1024)
    else match s1.ttDue p e with
    | none => .next s1
    | some bs => .next (s1.ttFire p e bs)

/-! ### Completion (R358) -/

/-- Does a task, a continuation, a pre-empted task or a command of a launch or spawned task still stand? -/
def State.ownerBusy (s : State) (p : PartNo) (h : Nat) : Bool :=
  ((s.tilesOf p).any fun t =>
    ((s.tile t).ctxs.toList.any fun c => c.run != .free && (c.task.map (·.owner)) == some h)
      || (s.tile t).cmds.any fun k => k.origin == h && k.stat != .complete)
    || ((s.part p).conts.any fun e => e.2.task.owner == h) || ((s.part p).saves.any fun e => e.2.task.owner == h)

/-- The bays of a launch or spawned task released on every tile of the partition (R357). -/
def State.releaseBays (s : State) (p : PartNo) (h : Nat) : State :=
  (s.tilesOf p).foldl (fun s t => s.onTile t fun x =>
    { x with bays := x.bays.map fun b => if b.launch = some h then Bay.start else b }) s

/-- The handles whose bays stand on a tile of a partition. -/
def State.bayOwners (s : State) (p : PartNo) : List Nat :=
  ((s.tilesOf p).flatMap fun t => (s.tile t).bays.toList.filterMap (·.launch)).eraseDups

/-- Does the task table still hold the launch or the spawned task of a handle? -/
def State.inTable (s : State) (p : PartNo) (h : Nat) : Bool :=
  match Map.get? (s.part p).tasks (h % 2 ^ 24) with
  | some x => x.use.isSome && x.use != some .saved && handleOf (h % 2 ^ 24) x.gen == h
  | none => false

/-- The images of a launch, or of the tasks spawned from a descriptor, are no longer shared on any tile of the
partition (R357, R445). -/
def State.dropImages (s : State) (p : PartNo) (key : Nat) : State :=
  (s.tilesOf p).foldl (fun s t => s.onTile t fun x =>
    { x with banks := x.banks.map fun b => if (b.image.map (·.1)) = some key then { b with image := none } else b }) s

/-- Does a spawned task of a descriptor stand: in its slot, on a context, in the pool or saved? -/
def State.spawnsOf (s : State) (p : PartNo) (descAddr : Nat) : Bool :=
  let is := fun (k : Task) => k.spawned && k.descAddr == descAddr
  ((s.part p).tasks.any fun e => match e.2.use with
    | some (.spawn w) => w.descAddr == descAddr
    | _ => false)
    || ((s.part p).conts.any fun e => is e.2.task) || ((s.part p).saves.any fun e => is e.2.task)
    || (s.tilesOf p).any fun t => (s.tile t).ctxs.toList.any fun c => c.run != .free && c.task.any is

/-- The descriptors of the spawned tasks whose images stand on a tile of a partition. -/
def State.spawnImages (s : State) (p : PartNo) : List Nat :=
  ((s.tilesOf p).flatMap fun t => (s.tile t).banks.toList.filterMap fun b => match b.image with
    | some (k, _) => if spawnKey 0 ≤ k then some (k - spawnKey 0) else none
    | none => none).eraseDups

/-- Bays and images of spawned tasks that have come to their end are released. -/
def State.sweepBays (s : State) (p : PartNo) : State :=
  let s1 := (s.bayOwners p).foldl (fun s h => if s.inTable p h ∨ s.ownerBusy p h then s else s.releaseBays p h) s
  (s1.spawnImages p).foldl (fun s a => if s.spawnsOf p a then s else s.dropImages p (spawnKey a)) s1

/-- LAUNCH_COMPLETE: a launch with no index left, whose tasks and commands have all ended, leaves its slot; its
bays are released, its image is dropped, and what waits for it goes on. -/
def execLaunchComplete (p : PartNo) (slot : Nat) (s : State) : Out :=
  match Map.get? (s.part p).tasks slot with
  | some ⟨g, some (.launch l)⟩ =>
    let h := handleOf slot g
    if l.waiting ∨ s.ownerBusy p h then .next s
    else
      let s1 := ((s.releaseBays p h).dropImages p h).freeTaskSlot p slot
      match l.origin with
      | .queue f q =>
        .next ((s1.onQueue f q fun x => { x with open_ := x.open_.filter fun n => n != (slot, g) }).serve f)
      | .table e _ => .next ((s1.ttComplete p e).serve (s.funcOf p))
  | _ => .next ((s.sweepBays p).serve (s.funcOf p))

end Sys2Proof.Machine
end

