-- ==== Sys2Proof/Machine/Prologue.lean ====
section
/-! DEFINITION. The prologue engine of the Gondola (R249, R348, R349): one bundle a nanosecond, its verbs, its end. -/

namespace Sys2Proof.Machine

/-- The opcodes a prologue may hold in each slot. -/
def prologueLegal (e : Slot × Flagged) : Bool :=
  match e.1, e.2.ins with
  | _, .nop => true
  | .K, .br .. => true
  | .K, .waitc _ => true
  | .K, .sysc _ => true
  | .S, _ => true
  | .G, .gld .. => true
  | .E, .snfind .. => true
  | _, _ => false

/-- The bundle at the prologue's PC, none where it faults: an image ends where its bytes do. -/
def Prologue.fetch (g : Prologue) : Option Bundle :=
  let pc := g.ctx.regs.pc.toNat % 0x8000
  match decodeBundle false (wordsOfBytes (Mem.readBytes g.image pc (min 100 (g.size - pc)))) with
  | .ok b => if b.items.all prologueLegal then some b else none
  | .error _ => none

def State.onPrologue (s : State) (f : Prologue → Prologue) : State := { s with prologue := s.prologue.map f }

/-- A fault of the running prologue: it ends with PROLOGUE_FAULT. -/
def Prologue.faulted (g : Prologue) : Prologue := { g with ended := true, fault := true }

/-! ### The end (R249, R346) -/

/-- Holds given back at a prologue's end. -/
def State.dropHolds (s : State) (p : PartNo) (hs : List Word) : State :=
  hs.foldl (fun s h => match s.liveNode p (h &&& 0xFFFFFFFFFFFF) with
    | some (n, _, _) => s.onNode n fun k => { k with holds := k.holds - 1 }
    | none => s) s

/-- A prologue that has ended leaves the engine: holds with no launch are released, and its command is past. -/
def State.endPrologue (s : State) (g : Prologue) : State :=
  let s1 := { (s.dropHolds g.part g.holds) with prologue := none }
  match g.origin with
  | .queue f q =>
    if g.fault then (if (s1.queue f q).state = .running then s1.queueError f q 3 g.tag.toNat else s1).serve f
    else s1.advance f q
  | .table e _ =>
    if g.fault then s1.ttError g.part e 3 g.tag.toNat else s1.ttComplete g.part e

/-! ### The verbs (R349) -/

/-- A descriptor with the innermost S extent replaced. -/
def Desc.withInner (d : Desc) (n : Nat) : Desc :=
  match d.sext.reverse with
  | [] => d
  | _ :: es => { d with sext := (n :: es).reverse }

/-- EMIT: one launch accepted with the registers' words; none where the task table is full, so that it waits. A
fault of the launch's descriptor is an error of the command. -/
def State.emitLaunch (s : State) (g : Prologue) : Option State :=
  let r := g.ctx.regs
  let x9 := (r.x 9).toNat
  let ws : Vector Word 8 := Vector.ofFn fun i : Fin 8 => if i.val < 6 then r.x (Fin.ofNat 32 (i.val + 1)) else g.words[i]
  let refused := fun (code : Nat) =>
    ({ s.dropHolds g.part g.holds with prologue := none }.originError g.part g.origin code g.tag.toNat).serve g.func
  if 64 ≤ g.emits ∨ 16777215 < x9 then some (s.onPrologue Prologue.faulted)
  else match s.readDesc g.part g.descAddr with
  | .error e => some (refused (DescErr.code e))
  | .ok d =>
    let d1 := if x9 = 0 then d else d.withInner x9
    if 2 ^ 32 ≤ d1.total then some (refused 2)
    else (s.acceptLaunch g.part d1 g.descAddr ws g.origin g.tag).map fun s =>
      s.onPrologue fun g => { g with emits := g.emits + 1, holds := [] }

/-- EMIT of the running prologue. -/
def execEmit (s : State) : Out :=
  match s.prologue with
  | some g => .next ((s.emitLaunch g).getD s)
  | none => .next s

/-- DONE: EMIT, then the end. -/
def execDone (s : State) : Out :=
  match s.prologue with
  | some g => match s.emitLaunch g with
    | some s1 => .next (s1.onPrologue fun g => { g with ended := true })
    | none => .next s
  | none => .next s

/-- The running prologue ends with no further launch: its holds are released in the same step (R249). -/
def State.cancelPrologue (s : State) (g : Prologue) : State :=
  (s.dropHolds g.part g.holds).onPrologue fun g => { g with ended := true, holds := [] }

/-- CANCEL. -/
def execCancel (s : State) : Out :=
  match s.prologue with
  | some g => .next (s.cancelPrologue g)
  | none => .next s

/-- The verb of a SYSC that has issued, at the next boundary; a verb that waits leaves it standing. -/
def State.verb (s : State) (g : Prologue) (code : BitVec 20) : State :=
  let clear := fun (s : State) => s.onPrologue fun g => { g with ctx := { g.ctx with afterIssue := none } }
  match code.toNat with
  | 0 => ((s.emitLaunch g).map clear).getD s
  | 1 => ((s.emitLaunch g).map fun s => clear (s.onPrologue fun g => { g with ended := true })).getD s
  | 2 => clear (s.cancelPrologue g)
  | _ => s.onPrologue Prologue.faulted

/-! ### A nanosecond (R348) -/

/-- The results whose nanosecond has come. -/
def Prologue.land (g : Prologue) : Prologue :=
  let due := fun (f : Flight) => decide (f.due ≤ g.cycle)
  let x := { g.ctx with flight := g.ctx.flight.filter fun f => !due f }
  { g with ctx := (g.ctx.flight.filter due).foldl (fun x f =>
      let y := x.landFlags f
      { y with regs := y.regs.land f }) x }

/-- A load of the prologue performed: device memory as a start refresh would find it (R295). -/
def State.prologueLoad (s : State) (a : GAcc) : State :=
  match s.prologue with
  | none => s
  | some g => match a.ins.ins with
    | .gld sx sz d _ => match s.hubRead g.part a.ea.toNat (Size.bytes sz) with
      | some bs => s.onPrologue fun g => { g with ctx := { g.ctx with
          regs := { g.ctx.regs.setX d (extended sx sz bs) with ld := g.ctx.regs.ld - 1 },
          gaccs := g.ctx.gaccs.filter fun k => k.id != a.id } }
      | none => s.onPrologue Prologue.faulted
    | _ => s

/-- One try of the prologue's bundle. -/
def State.prologueBundle (s0 : State) (g : Prologue) (b : Bundle) : State :=
  let s := { s0 with cur := .gondola }
  let held := g.ctx.regs.heldFor b
  let s1 := s.onCx fun x => { x with npc := some (nextPc x.regs.pc b.words), regs := { x.regs with held := held } }
  match s1.verdict (s1.outcomes (g.ctx.regs.active held)) [] with
  | .go _ (some _) _ => s.onPrologue Prologue.faulted
  | .go effs none _ => match (s.onCx fun x => x.issuing b held false).applyEffects effs with
    | none => s
    | some s2 =>
      let s3 := (s2.onCx fun x => x.issued g.cycle g.ctx.regs b).onPrologue fun g => { g with bundles := g.bundles + 1 }
      s3.cx.gaccs.foldl (fun s a => s.prologueLoad a) s3
  | .trap _ _ => s.onPrologue Prologue.faulted
  | _ => s

/-- PROLOGUE: a nanosecond of the running prologue: its end, a verb that stands, or its next bundle. -/
def execPrologue (f : FuncNo) (s : State) : Out :=
  match s.prologue with
  | none => .next s
  | some g0 =>
    if g0.func ≠ f then .next s
    else
      let g := { g0 with cycle := g0.cycle + 1 }.land
      let s1 := s.onPrologue fun _ => g
      let s2 := if g.ended then s1.endPrologue g
        else match g.ctx.afterIssue with
        | some (_, code) => s1.verb g code
        | none =>
          if g.cycle < g.ctx.resumeAt then s1
          else if 4096 ≤ g.bundles then s1.onPrologue Prologue.faulted
          else match g.fetch with
            | some b => s1.prologueBundle g b
            | none => s1.onPrologue Prologue.faulted
      .next (if s2.prologue.isSome then s2.schedAt (s2.now + nanos 1) 900 (.prologue f) else s2)

end Sys2Proof.Machine
end

