-- ==== Sys2Proof/Machine/Scheduler.lean ====
section
/-! DEFINITION. From ready entry to issue (R125, R353 to R361, R446): the checks of a spawned task, selection,
binding, bank loads, the start of a task, and pre-emption with its restore. -/

namespace Sys2Proof.Machine

/-! ### The checks of a spawned task (R125) -/

/-- A spawned task whose checks fail: its slot is freed, and the fault is deferred. -/
def State.spawnFails (s : State) (t : TileNo) (c : CtxNo) (tid : Nat) (p : PartNo) (slot detail a : Nat) : State :=
  (s.arrive t c tid (defRec detail 0x10 none (BitVec.ofNat 64 a))).freeTaskSlot p slot

/-- TSPAWN_CHECK: the descriptor and the launch words are read and checked; CP falls either way. -/
def execTspawnCheck (t : TileNo) (c : CtxNo) (tid : Nat) (p : PartNo) (slot : Nat) (gen : BitVec 8) (s : State) : Out :=
  let s0 := (s.handOff t c .part).dropCp t c tid
  match Map.get? (s0.part p).tasks slot with
  | some ⟨g, some (.spawn k)⟩ =>
    if g ≠ gen ∨ k.desc.isSome then .next s0
    else match s0.readDesc p k.descAddr, s0.readWords p k.wordsAddr with
    | .error .translation, _ => .next (s0.spawnFails t c tid p slot 7 k.descAddr)
    | .error .malformed, _ => .next (s0.spawnFails t c tid p slot 6 k.descAddr)
    | .ok _, none => .next (s0.spawnFails t c tid p slot 7 k.wordsAddr)
    | .ok d, some ws =>
      let s1 := s0.setSlot p slot (some (.spawn { k with desc := some d, words := ws })) g
      .next (s1.readySpawn p slot)
  | _ => .next s0

/-! ### Selection (R353, R355, R356) -/

/-- What a task is told by its descriptor. -/
def Desc.task (d : Desc) (tid slot owner : Nat) (launch : Bool) (descAddr index : Nat) (prio : BitVec 3) (now : Nat) : Task :=
  { tid := tid, slot := slot, owner := owner, launch := launch, spawned := !launch, descAddr := descAddr, index := index,
    prio := prio, resumable := d.resumable, feeds := d.fifo.extractLsb' 0 2 != 0, code := d.code, codesz := d.codesz,
    mramoff := d.mramoff, boundAt := now }

/-- The launch words of a task, in X1 to X8 (R33). -/
def Regs.withWords (g : Regs) (ws : Nat → Word) : Regs :=
  (List.range 8).foldl (fun g i => g.setX (Fin.ofNat 32 (i + 1)) (ws i)) g

/-- Clocks of a tile from its next one until a tick; an idle tile's next clock follows its wake (R386). -/
def State.clocksTo (s : State) (t : TileNo) (tick : Nat) : Nat :=
  let x := s.tile t
  let next := if x.power = .run then x.nextAt else s.now + nanos 20 + s.tilePeriod t
  (tick - next + s.tilePeriod t - 1) / s.tilePeriod t

/-- The clock of the first issue of an entry: 320 ns after it became ready, or where that is past within 320 ns
from now (R357, log 16). -/
def State.startClock (s : State) (t : TileNo) (readyAt : Nat) : State × Nat :=
  let tick := if s.now ≤ readyAt + nanos 320 then readyAt + nanos 320 else s.now + s.delay 0 (nanos 320)
  (s.drew, (s.tile t).cycle + 1 + s.clocksTo t tick)

/-- A context as a selected task finds it, not yet bound (R33). -/
def Ctx.chosen (x : Ctx) (k : Task) (g : Regs) (at_ : Nat) : Ctx :=
  { x.cleared with regs := g, task := some k, run := .selected, resumeAt := at_, turnFrom := k.boundAt }

/-- The registers a continuation carries (R33, R118). -/
def Cont.regs (k : Cont) (status : Nat) : Regs :=
  let g0 := { Regs.start k.resume with fpctl := k.fpctl, stky := k.stky, nres := true }
  let g1 := k.xs.foldl (fun (g : Regs) q => g.setX q.1 q.2) g0
  let g2 := k.as.foldl (fun (g : Regs) q => { g with as := g.as.set q.1 q.2 }) g1
  g2.setX k.status (BitVec.ofNat 64 status)

/-- The entry a context receives is its own: a selection is final. -/
def State.takeEntry (s : State) (p : PartNo) (t : TileNo) (c : CtxNo) (e : Entry) : State :=
  let s1 := (s.returnRanges p t c (match e.kind with
    | .launch i => some i
    | _ => none)).fresh
  let tid := s.nextId
  match e.kind with
  | .launch i => match Map.get? (s1.part p).tasks i with
    | some ⟨g, some (.launch l)⟩ => match takeIndex l.ranges t c with
      | none => s1
      | some (n, rs) =>
        let k := l.desc.task tid i (handleOf i g) true l.descAddr n (BitVec.ofNat 3 e.prio) s.now
        let r := (Regs.start (BitVec.ofNat 64 l.desc.entry)).withWords fun j =>
          if j = 6 then BitVec.ofNat 64 n else if j = 7 then BitVec.ofNat 64 l.total else l.words.toList.getD j 0
        let q := (s1.setSlot p i (some (.launch { l with ranges := rs })) g).startClock t e.ready
        q.1.onCtx t c fun x => x.chosen k r q.2
    | _ => s1
  | .spawn i => match Map.get? (s1.part p).tasks i with
    | some ⟨g, some (.spawn w)⟩ => match w.desc with
      | none => s1
      | some d =>
        let k := d.task tid i (handleOf i g) false w.descAddr 0 d.prio s.now
        let r := (Regs.start (BitVec.ofNat 64 d.entry)).withWords fun j => w.words.toList.getD j 0
        let q := (s1.setSlot p i (some (.spawn { w with running := true })) g).startClock t e.ready
        q.1.onCtx t c fun x => x.chosen k r q.2
    | _ => s1
  | .cont i => match s1.cont? p i with
    | some k =>
      let q := (s1.onPart p fun x => { x with conts := Map.erase x.conts i }).startClock t e.ready
      let s2 := q.1.onCtx t c fun x => x.chosen { k.task with tid := tid, boundAt := s.now }
        (k.regs ((k.ready.map (·.1)).getD 0)) q.2
      s2.onTile t fun x => x.placeNames c k.vs
    | none => s1
  | .saved i => match Map.get? (s1.part p).saves i with
    | some k =>
      let s2 := s1.onPart p fun x => { x with saves := Map.set x.saves i { k with taken := true } }
      s2.onCtx t c fun x => { k.ctx with
        ints := x.ints ++ k.ctx.ints.filter fun n => !x.ints.contains n, run := .selected, preempt := false,
        task := some { k.task with boundAt := s.now }, resumeAt := (s.tile t).cycle + 1, turnFrom := s.now }
    | none => s1

/-- A free context asks for work: the first entry of R355 that is eligible becomes its own, and it is bound within
this clock. A tile in IDLE is brought to RUN (R386). -/
def State.ask (s : State) (t : TileNo) (c : CtxNo) : Option State :=
  match s.partOf t with
  | none => none
  | some p =>
    let x := s.tile t
    if (x.ctxs[c]).run ≠ .free ∨ x.quarantined ∨ (s.part p).paused ∨ !(s.part p).live ∨ s.pkg.state ≠ .run then none
    else (s.choose p t c).map fun e => s.takeEntry p t c e

/-- SELECTION: an ask of its own, for a tile in RUN or IDLE. -/
def execSelection (t : TileNo) (c : CtxNo) (s : State) : Out :=
  let x := s.tile t
  if x.power ≠ .run ∧ x.power ≠ .idle then .next s
  else match s.ask t c with
  | none => .next s
  | some s1 => .next ((s1.wake t).schedAt s.now (orderKey t c) (.binding t c))

/-! ### Binding (R357) -/

/-- The bank of a task that comes back must be loaded again: it held no image since the tile lost power. -/
def Tile.bankLost (x : Tile) (b : Fin 2) : Bool :=
  (x.banks[b]).image.isNone && (x.banks[b]).mem.isEmpty && !(x.banks[b]).loading

/-- The clocks of a bank load: 64 bytes a clock. Its copy time comes on top of the 320 ns of R357. -/
def loadClocks (size : Nat) : Nat := (size + 63) / 64

/-- A bank load starts: 64 bytes a clock, behind what the reads of CODE take (log 16). -/
def State.startLoad (s : State) (t : TileNo) (b : Fin 2) (key code size : Nat) : State :=
  let n := s.tilePeriod t * loadClocks size
  (s.onTile t fun x => { x with banks := x.banks.set b { x.banks[b] with image := some (key, code), loading := true } }).sched
    n (n + nanos engineNs) (orderKey t 0) (.bankLoadComplete t (b == 1))

/-- The task starts: its first segment entry, and the acquire of R128 and R295 over the whole space. A task that
comes back from a save is restored first (R361). -/
def State.startTask (s : State) (t : TileNo) (c : CtxNo) (p : PartNo) : State :=
  if s.pkg.state ≠ .run then s else
  let x := s.ctxAt t c
  let back := (s.part p).saves.any fun e => e.2.taken && some e.2.task.tid == x.task.map (·.tid)
  if back then
    (s.onCtx t c fun x => { x with run := .restoring }).sched 0 (s.tilePeriod t * 512) (orderKey t c) (.restore t c)
  else
    let s1 := (s.refresh t wholeSpace .part).onCtx t c fun x =>
      { x with run := .bound, resumeAt := max x.resumeAt ((s.tile t).cycle + 1) }
    s1.enter t c

/-- The PC of a task with its bank. -/
def inBank (b : Fin 2) (off : Word) : Word := BitVec.ofNat 64 (b.val * 0x8000) ||| (off &&& 0x7FFF)

/-- The descriptor whose bays a selected task places: a launch's or a spawned task's, not a continuation's. -/
def State.placedDesc (s : State) (p : PartNo) (k : Task) : Option Desc :=
  if k.launch then match Map.get? (s.part p).tasks k.slot with
    | some ⟨g, some (.launch l)⟩ => if handleOf k.slot g = k.owner then some l.desc else none
    | _ => none
  else match Map.get? (s.part p).tasks k.slot with
    | some ⟨g, some (.spawn w)⟩ => if handleOf k.slot g = k.owner then w.desc else none
    | _ => none

/-- A selected task bound: its bays and its bank, then its start, at once or when its image is resident.
`fresh` tells a launch's or a spawned task from one that comes back. -/
def State.bindTask (s : State) (t : TileNo) (c : CtxNo) (p : PartNo) (k : Task) (fresh : Bool) : Option State :=
  if fresh then match s.placedDesc p k with
    | none => none
    | some d => match (s.tile t).placeBays k.owner d.bays, s.pickBank p t d.code k.codeKey with
      | some y, some (b, load) =>
        let s1 := (s.setTile t y).onCtx t c fun x =>
          { x with
            run := .loading, regs := { x.regs with pc := inBank b x.regs.pc },
            resumeAt := x.resumeAt + (if load then loadClocks d.codesz else 0) }
        let s2 := if load then s1.startLoad t b k.codeKey d.code d.codesz else s1
        some (if load || ((s.tile t).banks[b]).loading then s2 else s2.startTask t c p)
      | _, _ => none
  else
    let b := (s.ctxAt t c).bank
    let s1 := s.onCtx t c fun x => { x with run := .loading }
    if (s.tile t).bankBarred b k.tid then none
    else if (s.tile t).bankLost b then
      some ((s1.onCtx t c fun x => { x with resumeAt := x.resumeAt + loadClocks k.codesz }).startLoad t b k.codeKey k.code k.codesz)
    else if ((s.tile t).banks[b]).loading then some s1
    else some (s1.startTask t c p)

/-- Is the selected task one that comes back: a continuation, or a pre-empted task? -/
def State.comesBack (s : State) (p : PartNo) (x : Ctx) (k : Task) : Bool :=
  (s.part p).saves.any (fun e => e.2.taken && e.2.task.tid == k.tid) || x.regs.nres || k.slot == 16384

/-- A selected context bound; where its bays or code find no room after all it looks again within 1 µs. -/
def State.bind (s : State) (t : TileNo) (c : CtxNo) : State :=
  let x := s.ctxAt t c
  match x.task, s.partOf t with
  | some k, some p =>
    if x.run ≠ .selected then s
    else match s.bindTask t c p k (!s.comesBack p x k) with
    | some s1 => s1
    | none => s.sched (nanos 1) (nanos 1000) (orderKey t c) (.binding t c)
  | _, _ => s

/-- BINDING. -/
def execBinding (t : TileNo) (c : CtxNo) (s : State) : Out := .next (s.bind t c)

/-! ### Bank loads (R357, R446) -/

/-- The record that a failed reload posts: DETAIL 7 and CODE. -/
def loadRec (opc code : Nat) : DefRec := defRec 7 opc none (BitVec.ofNat 64 code)

/-- The entry of a failed load: a launch hands out nothing more, a spawned task and one that comes back are gone. -/
def State.loadFailed (s : State) (t : TileNo) (c : CtxNo) (p : PartNo) (k : Task) : State :=
  let x := s.ctxAt t c
  let back := s.comesBack p x k
  let s1 := s.onTile t fun y => (y.freeNames c).setCtx c ((y.freeNames c).ctxs[c]).cleared
  if back then
    let post := s1.postPart p 0xFFF (recWord (loadRec 0 k.code)) true (s.ctxid t c).toNat 0
    let gone := (s.part p).saves.find? fun e => e.2.task.tid == k.tid
    let s2 := match gone with
      | some e =>
        let s3 := post.onPart p fun y => { y with saves := Map.erase y.saves e.1 }
        if k.spawned then s3 else s3.freeTaskSlot p e.1
      | none => post
    (if k.spawned ∧ k.slot < 16384 then s2.freeTaskSlot p k.slot else s2).checkLaunch p (k.owner % 2 ^ 24)
  else match Map.get? (s1.part p).tasks k.slot with
  | some ⟨g, some (.launch l)⟩ =>
    let s2 := (s1.setSlot p k.slot (some (.launch { l with noMore := true })) g).checkLaunch p k.slot
    if l.noMore then s2
    else match l.origin with
    | .queue f q => if (s2.queue f q).state = .running then s2.queueError f q 4 l.tag.toNat else s2
    | .table e _ => s2.ttError p e 4 l.tag.toNat
  | some ⟨_, some (.spawn w)⟩ =>
    ((s1.postPart p 0xFFF (recWord (loadRec 0x10 k.code)) true w.poster.toNat 0).freeTaskSlot p k.slot).checkLaunch p k.slot
  | _ => s1

/-- BANK_LOAD_COMPLETE: the image is resident and the contexts that wait for it start, or the load has failed. -/
def execBankLoadComplete (t : TileNo) (bank : Bool) (s : State) : Out :=
  let b : Fin 2 := if bank then 1 else 0
  let bk := (s.tile t).banks[b]
  let cs := allCtxs.filter fun c => (s.ctxAt t c).run == .loading && (s.ctxAt t c).bank == b
  if !bk.loading then .next s
  else match s.partOf t, bk.image with
  | some p, some (_, code) =>
    let size := (cs.filterMap fun c => (s.ctxAt t c).task.map (·.codesz)).headD 0
    let setBank := fun (f : Bank → Bank) => s.onTile t fun x => { x with banks := x.banks.set b (f x.banks[b]) }
    match s.hubRead p code size, s.hubPoison p code size with
    | some bs, false =>
      let s1 := setBank fun k => { k with mem := Mem.writeBytes k.mem 0 bs, loading := false }
      .next (cs.foldl (fun s c => s.startTask t c p) s1)
    | _, _ =>
      let s1 := setBank fun k => { k with mem := [], image := none, loading := false }
      .next (cs.foldl (fun s c => match (s.ctxAt t c).task with
        | some k => s.loadFailed t c p k
        | none => s) s1)
  | _, _ => .next (s.onTile t fun x => { x with banks := x.banks.set b { x.banks[b] with loading := false } })

/-! ### Pre-emption (R316, R360, R361) -/

/-- The task of a tile that a higher entry pre-empts: the lowest priority, and among equals the last bound. -/
def Tile.victimCtx (x : Tile) : Option CtxNo :=
  let ks := allCtxs.filterMap fun c => match (x.ctxs[c]).run, (x.ctxs[c]).task with
    | .bound, some k => some (c, k)
    | .halted, some k => some (c, k)
    | _, _ => none
  match ks with
  | [] => none
  | k :: ks => some (ks.foldl (fun m n =>
      if n.2.prio < m.2.prio ∨ (n.2.prio = m.2.prio ∧ m.2.boundAt ≤ n.2.boundAt) then n else m) k).1

/-- Does an entry of priority at least `lo` that is eligible for a tile wait? -/
def State.waits (s : State) (p : PartNo) (t : TileNo) (lo : Nat) : Bool :=
  (s.entries p).any fun e => decide (lo ≤ e.prio) && s.eligible p t none e

/-- Does the priority cause of R360 hold for a context? -/
def State.outranked (s : State) (t : TileNo) (c : CtxNo) : Bool :=
  match s.partOf t, (s.ctxAt t c).task with
  | some p, some k =>
    ((s.tile t).ctxs.toList.all fun x => x.run != .free) && (s.tile t).victimCtx == some c
      && s.waits p t (k.prio.toNat + 1)
  | _, _ => false

/-- Does another bound context of the tile, or an eligible entry of the same or higher priority, wait? -/
def State.quantumCause (s : State) (t : TileNo) (c : CtxNo) : Bool :=
  match s.partOf t, (s.ctxAt t c).task with
  | some p, some k =>
    (allCtxs.any fun d => d != c && (s.ctxAt t d).run == .bound) || s.waits p t k.prio.toNat
  | _, _ => false

/-- The partition's quantum in ticks. -/
def State.quantum (s : State) (p : PartNo) : Nat :=
  nanos (1000 * (if (s.part p).quant = 0 then 1000 else (s.part p).quant))

/-- Has a context held the turn for the quantum without a block? -/
def State.quantumDue (s : State) (t : TileNo) (c : CtxNo) : Bool :=
  match s.partOf t with
  | some p => (s.ctxAt t c).run == .bound && (s.tile t).turn == c
      && decide (s.quantum p ≤ s.now - (s.ctxAt t c).turnFrom) && s.quantumCause t c
  | none => false

/-- QUANTUM_EXPIRY: the request stands until the bundle R316 admits, or until its cause has gone. -/
def execQuantumExpiry (t : TileNo) (c : CtxNo) (s : State) : Out :=
  if s.quantumDue t c then .next (s.onCtx t c fun x => { x with preempt := true }) else .next s

/-- A free save record, and for a task that is not spawned a free slot of the task table. -/
def State.saveRoom (s : State) (p : PartNo) (k : Task) : Option (Nat × Nat) :=
  let used := (s.part p).saves.map fun e => e.2.recNo
  match (List.range (s.part p).saven).find? fun n => !used.contains n with
  | none => none
  | some n => if k.spawned ∧ k.slot < 16384 then some (n, k.slot) else (s.freeSlot p).map fun i => (n, i)

/-- Is the bundle at the PC one at which R316 admits a pre-emption: a drained D bundle with LD = 0 and ST = 0? -/
def State.admitsPreempt (s : State) (t : TileNo) (c : CtxNo) : Bool :=
  let g := (s.ctxAt t c).regs
  s.atDrain t c && g.ld == 0 && g.st == 0

/-- A request stands, its cause holds, and there is room for the save. -/
def State.preempts (s : State) (t : TileNo) (c : CtxNo) : Bool :=
  match s.partOf t, (s.ctxAt t c).task with
  | some p, some k =>
    s.admitsPreempt t c && (s.outranked t c || ((s.ctxAt t c).preempt && s.quantumCause t c)) && (s.saveRoom p k).isSome
  | _, _ => false

/-- The save begins: 512 bytes a clock, within the 256 KiB of a record (log 16). -/
def State.beginSave (s : State) (t : TileNo) (c : CtxNo) : State :=
  (s.onCtx t c fun x => { x with run := .saving, preempt := false }).sched 0 (s.tilePeriod t * 512) (orderKey t c)
    (.preemption t c)

/-- The 256 KiB of a save record written in device memory: R361 gives no layout, so each byte is a free value (log 58). -/
def State.writeSave (s : State) (p : PartNo) (recNo : Nat) : State :=
  let a := (s.part p).saveb + recNo * 2 ^ 18
  let bs := (List.range (2 ^ 18)).map fun i => Config.freeBits 8 (s.freeCtr + i)
  { s with freeCtr := s.freeCtr + 2 ^ 18 }.hubWrite p a bs

/-- The saved task leaves its context and becomes a ready entry. -/
def State.finishSave (s : State) (t : TileNo) (c : CtxNo) (p : PartNo) (k : Task) (recNo slot : Nat) : State :=
  let x := s.ctxAt t c
  let sv : Saved := ⟨t, x, (s.tile t).namedVals c, k, s.now, recNo, false⟩
  let s1 := (s.writeSave p recNo).onPart p fun y => { y with saves := Map.set y.saves slot sv }
  let s2 := if k.spawned ∧ k.slot < 16384 then s1 else s1.setSlot p slot (some .saved) (s1.slotGen p slot)
  let s3 := s2.onTile t fun y =>
    let z := (y.freeNames c).setCtx c { ((y.freeNames c).ctxs[c]).cleared with ints := [] }
    { z with undo := z.undo.filter fun u => u.ctx != c }
  (s3.relevel (clusterOf t)).kick p

/-- PREEMPTION: of a running context, the save begins where R316 admits it; of one whose save is under way, the
save is released once its bundle's segment entry has committed and nothing is held. -/
def execPreemption (t : TileNo) (c : CtxNo) (s : State) : Out :=
  let x := s.ctxAt t c
  match s.partOf t, x.task with
  | some p, some k =>
    if x.run = .bound then (if s.preempts t c then .next (s.beginSave t c) else .next s)
    else if x.run ≠ .saving then .next s
    else if !(x.segs.all fun e => e.committed) ∨ !x.hold.isEmpty then
      .next (s.sched (s.tilePeriod t) (s.tilePeriod t * 64) (orderKey t c) (.preemption t c))
    else match s.saveRoom p k with
    | some (n, i) => .next (s.finishSave t c p k n i)
    | none => .next (s.onCtx t c fun x => { x with run := .bound })
  | _, _ => .next s

/-- RESTORE: the saved values come back, the record and the slot are free, and the task issues from its drain
bundle; copies that wait for a PUB follow the task to its new context. -/
def execRestore (t : TileNo) (c : CtxNo) (s : State) : Out :=
  let x := s.ctxAt t c
  match s.partOf t, x.task with
  | some p, some k => match (s.part p).saves.find? fun e => e.2.taken && e.2.task.tid == k.tid with
    | some (i, sv) =>
      if x.run ≠ .restoring ∨ s.pkg.state ≠ .run then .next s
      else
        let s1 := s.onPart p fun y => { y with saves := Map.erase y.saves i }
        let s2 := if k.spawned ∧ k.slot < 16384 then s1 else s1.freeTaskSlot p i
        let s3 := s2.onTile t fun y =>
          let z := y.setCtx c { y.ctxs[c] with
            run := .bound, resumeAt := y.cycle + 1, npc := none, reached := false, commitWait := false,
            regs := { (y.ctxs[c]).regs with vmap := Vector.replicate 32 .unmapped } }
          let w := z.restoreNames c sv.ctx.regs.vmap sv.vals
          { w with cmds := w.cmds.map fun m => if m.tid = k.tid then { m with ctx := c } else m }
        .next ((s3.enter t c).relevel (clusterOf t))
    | none => .next s
  | _, _ => .next s

end Sys2Proof.Machine
end

