-- ==== Sys2Proof/Machine/Power.lean ====
section
/-! DEFINITION. Power loss, resume and bring-up (R325 to R329, R366, R392, R398, R399, R447), the debug freeze (R397)
and the checkpoint to the safe tier (R393). -/

namespace Sys2Proof.Machine

/-! ### Stopping a context (R325 to R327) -/

def Resume.empty : Resume := ⟨false, Vector.replicate 4 none, [], 0⟩

/-- A context's entry of the tile's resume record. -/
def Tile.keepSave (x : Tile) (c : CtxNo) (v : CtxSave) : Tile :=
  let r := x.resume.getD Resume.empty
  { x with resume := some { r with ctxs := r.ctxs.set c (some v) } }

/-- A save of a context as it stands at its stop. -/
def Ctx.save (x : Ctx) (state : Nat) (mats : List MatOp) (cmds : List Cmd) (stop : Nat) : CtxSave :=
  { state := state, resumable := x.resumable, was := x.run, ctx := x, vals := [], mats := mats, cmds := cmds, stop := stop }

/-- A context stops, DRAINED, at a D bundle that meets the drain condition with LD = 0. -/
def State.drainStop (s : State) (t : TileNo) (c : CtxNo) : State :=
  let x := s.ctxAt t c
  (s.onTile t fun y => y.keepSave c (x.save 1 [] [] y.cycle)).onCtx t c fun x => { x with run := .stopped }

/-- Is an operation in flight an array operation? -/
def MatOp.isArray (m : MatOp) : Bool :=
  match m.kind with
  | .array .. => true
  | _ => false

/-- Is a command of a context outstanding, so that a stop aborts it: not a DEFER copy that is complete, nor an
MCMT whose commit record is journalled (R221, R326)? -/
def Cmd.stopsWith (k : Cmd) (c : CtxNo) (tid : Nat) : Bool :=
  k.ctx == c && k.tid == tid && k.stat != .complete && !k.journalled

/-- The array operations abandoned (R181): their result tiles go back to the shadows, and the entries they reserved
return to the heads of their streams. -/
def Ctx.abandon (x : Ctx) : Ctx :=
  let gone := x.mops.filter MatOp.isArray
  let left := x.mops.filter fun m => !m.isArray
  { x with
    mops := left, regs := { x.regs with tok := x.regs.tok - gone.length },
    af := gone.flatMap (·.af) ++ x.af, bf := gone.flatMap (·.bf) ++ x.bf, mq := gone.flatMap (·.mq) ++ x.mq,
    rts := Vector.ofFn fun r : Fin 8 =>
      if gone.any fun m => m.rt == r then { x.rts[r] with val := (x.rts[r]).shadow, busy := stillBusy left r } else x.rts[r] }

/-- The context as a forced latch save leaves it: what is in flight waits as latches for the bundle at EPC, and no command
it holds goes out any more (R326). -/
def Ctx.latched (x : Ctx) (latches : List Flight) (aborted : List Nat) : Ctx :=
  let y := x.abandon
  { y with
    flight := [], gaccs := [], reinject := some ⟨latches, []⟩, run := .stopped, npc := none, afterIssue := none,
    regs := { y.regs with cp := y.regs.cp - aborted.length },
    hold := y.hold.filter fun h => match h.kind with
      | .step (.copyStart ..) => false
      | .step (.lanternStep ..) => false
      | .store _ _ _ acc => acc
      | _ => true }

/-- A forced latch save (R326): outstanding and held commands become command records, array operations become
matrix records, and what else is held goes out 40 clocks later. -/
def State.latchSave (s : State) (t : TileNo) (c : CtxNo) : State :=
  let x := s.ctxAt t c
  let tid := (x.task.map (·.tid)).getD 0
  let now := (s.tile t).cycle
  let ks := (s.tile t).cmds.filter fun k => k.stopsWith c tid
  let again := ((s.tile t).redo.filter fun q => q.2.ctx == c).map (·.2)
  let lat := { x with flight := x.flight.map ((s.tile t).keepsName c) }.latches now
  let sv := x.save 2 (x.mops.filter MatOp.isArray) (ks ++ again) now
  let s1 := ks.foldl (fun s k => ((s.dropTransient t k).unwindCmd t k).onTile t fun y => y.dropCmd k.id) s
  let s2 := (s1.onTile t fun y => { y.keepSave c sv with redo := y.redo.filter fun q => q.2.ctx != c }).onCtx t c fun x =>
    x.latched lat (ks.map (·.id))
  s2.enter t c

/-- A context that stands at a segment entry stops there (R35, R325): DRAINED, or with its commands recorded. -/
def State.entryStop (s : State) (t : TileNo) (c : CtxNo) : State :=
  let tid := ((s.ctxAt t c).task.map (·.tid)).getD 0
  if (s.tile t).cmds.any (fun k => k.stopsWith c tid) ∨ (s.tile t).redo.any (fun q => q.2.ctx == c) then s.latchSave t c
  else s.drainStop t c

/-- Is the forced save of contexts due: 2 µs after detection? -/
def State.forceDue (s : State) : Bool := s.pkg.state == .holdUp && decide (s.pkg.failAt + nanos 2000 ≤ s.now)

/-- A Software Trap or a System Call whose bundle has issued, taken before a stop (R35, R303). -/
def State.afterFirst (s : State) (t : TileNo) (c : CtxNo) : State :=
  if (s.ctxAt t c).afterIssue.isSome then s.takeAfter t c else s

/-- FORCED_LATCH_SAVE: a context that has not stopped is saved at the first clock, from 2 µs on, at which it would
issue its next bundle; a halted one at once. A Software Trap or a System Call that this boundary takes is entered first,
and its frame swept (R35). -/
def execForcedLatchSave (t : TileNo) (c : CtxNo) (s : State) : Out :=
  if s.forceDue ∧ (s.atBoundary t c ∨ (s.ctxAt t c).run = .halted) then
    .next (if (s.ctxAt t c).atEntry then s.entryStop t c
      else match ((s.afterFirst t c).ctxAt t c).run with
        | .bound => (s.afterFirst t c).latchSave t c
        | .halted => (s.afterFirst t c).latchSave t c
        | _ => s.afterFirst t c)
  else .next s

/-! ### The sweep (R34, R328) -/

/-- The save of a context at the sweep: one that stopped, or one that was bound and had not begun to issue. A
context that winds down is FREE (log 34). -/
def Tile.sweepCtx (x : Tile) (c : CtxNo) : Option CtxSave :=
  let k := x.ctxs[c]
  let kept := x.cmds.filter fun m => m.ctx == c && (m.stat == .complete || m.journalled)
  match k.run with
  | .stopped => (x.resume.bind fun r => r.ctxs[c]).map fun v =>
      { v with ctx := k, vals := x.namedVals c, cmds := v.cmds ++ kept }
  | .selected => some { k.save 1 [] [] x.cycle with vals := x.namedVals c }
  | .loading => some { k.save 1 [] [] x.cycle with vals := x.namedVals c }
  | .saving => some { { k.save 1 [] [] x.cycle with vals := x.namedVals c, cmds := kept } with was := .bound }
  | .bound => some { k.save 1 [] [] x.cycle with resumable := false }
  | .halted => some { k.save 1 [] [] x.cycle with resumable := false }
  | _ => none

/-- The KEEP bays with their contents. -/
def Tile.keepBays (x : Tile) : List (BayNo × List Byte) :=
  (List.finRange 64).filterMap fun n =>
    let b := x.bay n
    if b.configured ∧ b.keep then some (n, x.readSp (b.base.toNat * 4096) (b.size.toNat * 4096)) else none

/-- A matrix record: its instruction word, AGE and its order. -/
def MatOp.bytes (m : MatOp) (stop i : Nat) : List Byte :=
  bytesOfNat 16 (m.word.toNat + (stop - m.admitted) % 2 ^ 16 * 2 ^ 32 + i * 2 ^ 48)

/-- A command record. -/
def Cmd.bytes (k : Cmd) : List Byte :=
  let ws := encode k.ins
  ((List.range 3).flatMap fun i => bytesOfNat 4 ((ws.drop i).headD 0).toNat) ++ bytesOfNat 4 k.prog
    ++ k.ops.toList.flatMap fun w => bytesOfNat 8 w.toNat

/-- The power frame of a latched context (R326): TCAUSE is 0 (log 34). -/
def CtxSave.frame (v : CtxSave) : Frame :=
  let g := v.ctx.regs
  { cause := 0, epc := g.pc, eclk := v.stop, held := g.held, repl := g.rep, nondrain := true, levels := g.lcs, nest := g.nest,
    latches := (v.ctx.reinject.map (·.latches)).getD [], pend := [], defer := [], dovf := 0, handlerIssued := false }

/-- What a context's save puts into the resume record. -/
def CtxSave.pieces (v : CtxSave) (c : CtxNo) : List (Nat × List Byte) :=
  let flags := v.state + (v.ctx.task.map fun k => if k.resumable then 4 else 0).getD 0 + (if v.ctx.regs.nres then 8 else 0)
  let mats := v.mats.zipIdx.flatMap fun q => q.1.bytes v.stop q.2
  let cmds := (v.cmds.filter fun k => k.stat != .complete && !k.journalled).flatMap Cmd.bytes
  [(0x10 + 8 * c.val, bytesOfNat 8 flags), (0x30 + 8 * c.val, bytesOfNat 8 ((v.ctx.task.map (·.descAddr)).getD 0))]
    ++ (if v.state = 2 then
      ((v.frame.pieces true).filter fun q => decide (q.1 < 0x1200)).map (fun q => (0x1100 + 0x1200 * c.val + q.1, q.2))
        ++ [(0x5900 + 0x700 * c.val, mats.take 256), (0x5A00 + 0x700 * c.val, cmds.take 1536)]
    else [])

/-! ### The swept units (R34; log 14) -/

/-- Bytes up to the next unit of 4 KiB. -/
def padUnit (bs : List Byte) : List Byte := bs ++ List.replicate ((4096 - bs.length % 4096) % 4096) 0

/-- The 4,096 bytes of an image. -/
def bytesOfImage (v : VImage) : List Byte := bytesOfNat 4096 v.toNat

/-- What a context's save adds to each item of R34's table: V values, result tiles with the shadows of busy ones, stream
entries (1,024 bytes of a panel of AF and 4,096 of one of BF, as their bound of 672 KiB has it), and what its frames keep
in the context save region. -/
def CtxSave.swept (v : CtxSave) : List (List Byte) :=
  let x := v.ctx
  [v.vals.flatMap fun q => bytesOfImage q.2,
    x.rts.toList.flatMap fun r => bytesOfImage r.val ++ (if r.busy then bytesOfImage r.shadow else []),
    padUnit ((x.af.flatMap fun a => bytesOfNat 1024 a.data.toNat) ++ (x.bf.flatMap fun a => bytesOfImage a.data)
      ++ x.mq.flatMap fun m => bytesOfNat 256 m.data.toNat),
    ((x.frame.toList ++ if v.state = 2 then [v.frame] else []).flatMap Frame.saveSlots).flatMap fun q => padUnit q.2]

/-- The swept bytes of a tile without its KEEP bays, in the order of R34's table, each item in the order of the contexts
(DESIGN CHOICE, log 14). -/
def Resume.ctxUnits (r : Resume) : List Byte :=
  let vs := r.ctxs.toList.filterMap fun v => v.map CtxSave.swept
  (List.range 4).flatMap fun i => vs.flatMap fun v => v.getD i []

def Resume.units (r : Resume) : List Byte := r.ctxUnits ++ r.keep.flatMap (·.2)

/-- UNITS: the CRC32C of each swept unit and its index in the sweep area, behind the record's 8. -/
def unitEntries (bs : List Byte) : List Byte :=
  (List.range (bs.length / 4096)).flatMap fun i =>
    bytesOfNat 8 ((crc32c ((bs.drop (i * 4096)).take 4096)).toNat + (8 + i) * 2 ^ 32)

/-- The resume record in the sweep area, with the swept units behind it: COMMIT is written last. -/
def State.writeRecord (s : State) (t : TileNo) (p : PartNo) (r : Resume) : State :=
  let bs := r.units
  let n := bs.length / 4096
  let hdr := 1 + t.val * 2 ^ 8 + p.val * 2 ^ 16 + n * 2 ^ 32
  let head := [(0, bytesOfNat 8 hdr), (8, bytesOfNat 8 s.pkg.stopTime), (0x100, unitEntries bs)]
  let body := allCtxs.flatMap fun c => match r.ctxs[c] with
    | some v => v.pieces c
    | none => []
  let m := (head ++ body).foldl (fun (m : Mem) q => Mem.writeBytes m q.1 q.2) []
  let rec_ := Mem.readBytes m 0 0x7FF8
  let all := rec_ ++ bytesOfNat 8 ((crc32c rec_).toNat + 2 ^ 32) ++ bs
  s.onTile t fun x => { x with
    mram := Mem.writeBytes x.mram mramProg all,
    mramPoison := x.mramPoison.filter fun u => decide (u < mramProg / 64 ∨ (mramProg + all.length) / 64 ≤ u) }

/-- The resume record of a tile at the end of the sweep; one that waits for a resume is kept as it is. -/
def Tile.sweep (x : Tile) (waits : Bool) : Resume :=
  if waits then x.resume.getD Resume.empty
  else ⟨true, Vector.ofFn x.sweepCtx, x.keepBays, x.arrayFree⟩

/-- A tile as a power loss leaves it: NVFF state, MRAM, the record; an open transaction stays in the MRAM die. -/
def Tile.lostPower (x : Tile) (r : Option Resume) : Tile :=
  { Tile.start with
    quarantined := x.quarantined, arrayOrder := x.arrayOrder, mram := x.mram, mramPoison := x.mramPoison, wear := x.wear,
    spares := x.spares, retired := x.retired, journal := x.journal, resume := r, bays := x.bays }

/-- A tile swept and powered off. -/
def State.sweepTile (s : State) (t : TileNo) : State :=
  match s.partOf t with
  | none => s.onTile t fun x => x.lostPower none
  | some p =>
    let r := (s.tile t).sweep (s.part p).resume.isSome
    (s.writeRecord t p r).onTile t fun x => x.lostPower (some r)

/-! ### The hub over a power loss (R251, R300, R366) -/

/-- Does the hub let a partition resume: no spawned task waits, no continuation is enqueued, no task is saved? -/
def Partition.mayResume (x : Partition) : Bool :=
  !(x.tasks.any fun e => match e.2.use with
    | some (.spawn w) => !w.running
    | _ => false) && !(x.conts.any fun e => e.2.ready.isSome) && x.saves.isEmpty

/-- A partition over a power loss: its page tables lie in LPDDR-6 and are lost with it, and what the hub keeps in
no NVFF is lost; page tables, timers and bindings are gone (R300, R366, log 34). -/
def Partition.lostPower (x : Partition) (ctl : List Byte) : Partition :=
  { x with
    conts := [], timers := [], binds := [], saves := [], gslots := Vector.replicate 16 none, pt := [], poolUsed := 0,
    resume := if x.live then some (x.resume.getD x.mayResume) else none, ttCtl := ctl, paused := false,
    jobs := [] }

/-- The CTL fields of a time-triggered table: those captured before and not yet put back, or those of the table, which lies
in one page. -/
def State.ttCtls (s : State) (p : PartNo) : List Byte :=
  if !(s.part p).ttCtl.isEmpty then (s.part p).ttCtl
  else (List.finRange 64).filterMap fun e => (s.ttRead p e).map fun bs => bs.getD 24 0

/-- The ownership table over a power loss: no leaf names a frame any more, and a scrub under way has nothing
left to overwrite. -/
def framesLost (root : PartNo → Nat) (m : Map (FrameState × PartNo)) : Map (FrameState × PartNo) :=
  m.filterMap fun e => match e.2.1 with
    | .scrub false => none
    | .scrub true => some (e.1, (if e.1 = root e.2.2 then .table else .assigned, e.2.2))
    | .mapped => some (e.1, (.assigned, e.2.2))
    | _ => some e

/-- A function's registers at their reset values; its error counters are cleared by PCREATE only (R370, R379, R382). -/
def Func.cleared (f : Func) : Func := { Func.start with part := f.part, errc := f.errc, signals := f.signals, lastSignal := f.lastSignal }

/-- A function over a power loss: verbs under way end without effect; an FLR under way ends. -/
def Func.lostPower (f : Func) : Func :=
  if f.resetting then f.cleared else { f with mbcmd := f.mbcmd &&& ~~~(0x80000000 : Word) }

def Cluster.lostPower (k : ClusterNo) (x : Cluster) : Cluster := { Cluster.start k with part := x.part, crun := x.crun, cstall := x.cstall }

/-- The generations of the node slots over a power loss: those of the nodes that were live move on, so that a handle kept
is stale for good (R251, log 92). -/
def Lantern.lostGens (l : Lantern) : Map (BitVec 8) :=
  l.nodes.foldl (fun m n => Map.set m n.1 (l.gen n.1 + 1)) l.ngen

/-- The package loses power: the sweep is done, everything volatile is gone. -/
def State.powerOff (s : State) : State :=
  let ctl := fun (p : PartNo) => s.ttCtls p
  let s1 := allTiles.foldl State.sweepTile s
  { s1 with
    pkg := { Package.start with
      meas := [], throttles := s1.pkg.throttles, chashKey := s1.pkg.chashKey, checkpoints := s1.pkg.checkpoints,
      stopTime := s1.pkg.stopTime, failAt := s1.pkg.failAt },
    dram := [], poison := [], sysCache := [], peerPoison := [], frames := framesLost (fun p => (s.part p).tframe / 2 ^ 16) s1.frames, syncLines := [], incomplete := [], regions := [],
    ports := Vector.replicate 12 Port.start, unreachable := 0, groups := [], colls := [],
    lantern := ⟨[], s1.lantern.lostGens, []⟩, funcs := s1.funcs.map Func.lostPower,
    clusters := Vector.ofFn fun k => Cluster.lostPower k s1.clusters[k],
    parts := Vector.ofFn fun p => (s1.parts[p]).lostPower (ctl p), prologue := none, agenda := [] }

/-! ### Timers and releases follow TIME (R124, R362, R364) -/

/-- Every timer and every table's watch stands anew where TIME now reaches it. -/
def State.rearm (s : State) : State :=
  let s1 := s.dropEvents fun e => match e with
    | .timerDeadline .. => true
    | .ttRelease .. => true
    | _ => false
  (List.finRange 40).foldl (fun s p =>
    ((s.part p).timers.foldl (fun s e =>
      s.schedAt (max s.now (s.tickOf e.2.deadline)) (orderKey e.2.tile e.2.ctx) (.timerDeadline p e.1)) s).ttWatch p) s1

/-- TIME runs on from a value. -/
def State.setTime (s : State) (time : Nat) : State := { s with timeOff := time, timeAt := s.now }

/-- A wait of the frozen package: TIME and what is outside go on, the clocks do not (R397, log 35). -/
def State.frozenFor (s : State) (d : Nat) : State :=
  { { s with now := s.now + d }.setTime ({ s with now := s.now + d }.time) with
    now := s.now, timeAt := s.now, inputs := s.inputs.map (fun e => (e.1 - d, e.2)),
    errs := s.errs.map fun e => (e.1 - d, e.2) }

/-- The clocks resume. -/
def State.thaw (s : State) : State := { s with pkg := { s.pkg with frozen := false } }.rearm

/-- FREEZE: every clock stops; a locked interface goes to ERROR. -/
def execFreeze (s : State) : Out :=
  if s.pkg.state ≠ .run ∨ s.pkg.frozen then .next s
  else
    let s1 := (List.finRange 65).foldl (fun s f => if (s.func f).isLocked then s.lockBroken f else s) s
    .next { s1 with pkg := { s1.pkg with frozen := true } }

/-- FREEZE_RELEASE: every clock resumes, with no state changed. -/
def execFreezeRelease (s : State) : Out := if s.pkg.frozen then .next s.thaw else .next s

/-! ### The Ballast's sequence (R325, R392) -/

/-- The contexts on stopped clocks are saved 2 µs after detection; those on running ones at their tile's clock. -/
def State.askHalted (s : State) : State :=
  allTiles.foldl (fun s t => allCtxs.foldl (fun s c =>
    if (s.ctxAt t c).run = .halted then s.schedAt (s.now + nanos 2000) (orderKey t c) (.forcedLatchSave t c) else s) s) s

/-- The hub's own steps that end at detection: nothing runs in the window but the Ballast's sequence, of which the contexts'
stop and what they have begun are part (R325, R392). -/
def stopsAtDetection : Instr → Bool
  | .timerDeadline .. => true
  | .ttRelease .. => true
  | .prologue .. => true
  | .signalStep (.timer ..) .. => true
  | .signalStep (.queue ..) .. => true
  | .waitsReread .. => true
  | .queueNop .. => true
  | .selection .. => true
  | .mappingRemovalComplete .. => true
  | .patrolScrub => true
  | .clusterCounterSample => true
  | .safeTierCheckpoint .. => true
  | .tileIdle .. => true
  | .offDelay .. => true
  | .levelChangeComplete .. => true
  | .throttleStep .. => true
  | .binding .. => true
  | .bankLoadComplete .. => true
  | .preemption .. => true
  | .restore .. => true
  | .levelRecoveryStep .. => true
  | _ => false

/-- POWER_FAIL: detection, from which every context is asked to stop; and, 60 µs later, the end of the sequence, with which
the host link and the ports go down (R392). -/
def execPowerFail (s : State) : Out :=
  match s.pkg.state with
  | .run =>
    let s0 := if s.pkg.frozen then s.thaw else s
    let s1 := { s0 with pkg := { s0.pkg with state := .holdUp, stopTime := s0.time, failAt := s0.now } }
    .next ((s1.dropEvents stopsAtDetection).askHalted.schedAt (s1.now + nanos 60000) 1001 .powerFail)
  | .holdUp =>
    if s.agenda.any fun d => d.ev == .powerFail then .next s else .next s.powerOff
  | .powerOff => .next s
  | _ => .next { s with
      pkg := { Package.start with
        throttles := s.pkg.throttles, checkpoints := s.pkg.checkpoints, stopTime := s.pkg.stopTime, failAt := s.pkg.failAt },
      agenda := [] }

/-! ### Bring-up (R398, R399) -/

/-- A commit whose record is journalled is completed (R224); its code stands in its command's record. -/
def Tile.finishCommit (x : Tile) (ctr : Nat) : Tile :=
  match x.journal with
  | some j => match j.committing with
    | some id =>
      let r := x.applyAll ctr 0 j.cells
      let put := fun (v : CtxSave) => { v with cmds := v.cmds.map fun k => if k.id = id then { k with prog := if r.2 then 5 else 0 } else k }
      { r.1 with
        journal := none, resume := x.resume.map fun q => { q with ctxs := q.ctxs.map fun v => v.map put } }
    | none => x
  | none => x

/-- A tile at package RUN: a failed sensor quarantines it, and a record whose CRCs fail, or whose
MRAM controller has not started, is void. -/
def State.bootTile (v : BootVerdict) (s : State) (t : TileNo) : State :=
  (s.onTile t fun x =>
    let y := x.finishCommit s.freeCtr
    { y with
      quarantined := y.quarantined || v.failedSensors.contains t,
      resume := y.resume.map fun r => if v.badRecords.contains t ∨ v.failed.contains (.mram t) then { r with valid := false } else r }).drew

/-- A port that trains, with what the routing table reaches through it. -/
def State.bootPort (s : State) (q : PortNo × List (BitVec 6)) : State :=
  ({ s with ports := s.ports.set q.1 { Port.start with st := .retrain true, peers := q.2 } }).sched 0 (nanos 1500000) 1002
    (.retrainComplete q.1)

/-- Peers that no port's path reaches. -/
def State.offRoutes (s : State) : BitVec 64 :=
  (List.range 64).foldl (fun m n =>
    if s.ports.toList.any fun x => x.st != .down && x.peers.any fun d => d.toNat == n then m
    else m ||| BitVec.twoPow 64 n) 0

/-- The resources whose step of BOOT failed: each is disabled, and reported to the PF (R399, log 101). -/
def BootVerdict.disabled (v : BootVerdict) : List BootPart := if v.bitstream then v.failed else .gondola :: v.failed

/-- Package RUN. Without a source TIME runs free within 20 ppm (R362). -/
def State.bootDone (s : State) (v : BootVerdict) : State :=
  let meas := [(1, s.free 512)] ++ (if v.bitstream then [(2, s.drew.free 512)] else []) ++ [(3, s.drew.drew.free 512)]
  let s1 := { s.drew.drew.drew.drew with
    pkg := { s.pkg with
      state := .run, gondola := if v.bitstream then .valid else .recovery, meas := meas, chashKey := v.key, booting := none,
      ptpLocked := false, failed := BootVerdict.disabled v },
    slew := (s.drew.drew.drew.delay 0 40 : Nat) - 20 }
  let s2 := (s1.setTime (s1.pkg.stopTime + Config.delay s1.freeCtr)).drew
  let s3 := allTiles.foldl (State.bootTile v) s2
  let s4 := (v.linkUp.filter fun q => !v.failed.contains (.port q.1)).foldl State.bootPort s3
  let s5 := (List.finRange 40).foldl (fun s p =>
    if (s.part p).resume.isSome then s.sched 0 (nanos 1000000) 1002 (.partitionResume p) else s)
    { s4 with unreachable := s4.offRoutes }
  (s5.schedAt (s5.now + nanos 10000) 1000 .clusterCounterSample).schedAt (s5.now + nanos 86400000000000) 1000
    .patrolScrub

/-- POWER_GOOD: BOOT begins; and, within 1 ms, its steps have passed, or firmware that fails its check has sent the
package to RECOVERY within 0.2 ms. -/
def execPowerGood (v : BootVerdict) (s : State) : Out :=
  match s.pkg.state with
  | .powerOff =>
    let s1 := { s with pkg := { s.pkg with state := .boot, booting := some v } }
    .next (if v.firmware then s1.sched (nanos 900000) (nanos 1000000) 1001 (.powerGood v)
      else s1.sched 0 (nanos 200000) 1001 (.powerGood v))
  | .boot =>
    if s.agenda.any (fun d => match d.ev with
      | .powerGood _ => true
      | _ => false) then .next s
    else if v.firmware then .next (s.bootDone v)
    else .next { s with pkg := { s.pkg with state := .recovery } }
  | _ => .next s

/-- RECOVERY_IMAGE_WRITE: an image written in RECOVERY that verifies sends the package to BOOT. -/
def execRecoveryImageWrite (valid : Bool) (s : State) : Out :=
  match s.pkg.state, s.pkg.booting with
  | .recovery, some v =>
    let w := { v with firmware := true }
    if valid then
      .next ({ s with pkg := { s.pkg with state := .boot, booting := some w } }.sched (nanos 900000) (nanos 1000000) 1001
        (.powerGood w))
    else .next s
  | _, _ => .next s

/-! ### Resume (R329, R366, R447) -/

/-- A command record issued again, with the operand values of its OPS; a CFEED goes on behind the panels it had
pushed. -/
def State.reissue (s0 : State) (t : TileNo) (c : CtxNo) (k : Cmd) : State :=
  let s := { s0 with cur := .hw t c }
  let n := { s.newCmd s k.ins.ins k.ops k.slot with
    ins := k.ins, srcBay := k.srcBay, dstBay := k.dstBay, tiles := k.tiles, prog := k.prog }
  match k.ins.ins with
  | .cfeed _ _ _ f ssp => (s.addCp.map fun r =>
      (r.putCmd { n with stat := .started }).feedNext t n f ssp (210 * 120)).getD s
  | _ => match k.ctl? with
    | some ctl =>
      let q := s.reserve s n ctl.dsp k.ops[2]
      (q.1.registerCmd s q.2 k.ops[0] ctl.bin ctl.bout).getD s
    | none => (s.holdCmd s n).getD s

/-- The commands of a tile whose clock of reissue has come are issued again, in order (R329). -/
def State.reissueDue (s : State) (t : TileNo) : State :=
  let x := s.tile t
  let due := x.redo.filter fun q => decide (q.1 ≤ x.cycle)
  due.foldl (fun s q => s.reissue t q.2.ctx q.2) (s.setTile t { x with redo := x.redo.filter fun q => decide (x.cycle < q.1) })

/-- The earliest admission of a context's matrix records, or its stop. -/
def CtxSave.first (v : CtxSave) : Nat := v.mats.foldl (fun m k => min m k.admitted) v.stop

/-- The clock that a saved clock becomes, so that every spacing stands: the earliest of a tile becomes clock 1. -/
def Resume.shift (r : Resume) (clock : Nat) : Nat :=
  let firsts := r.ctxs.toList.filterMap fun v => v.map CtxSave.first
  clock + 1 - firsts.foldl min (firsts.headD 0)

/-- The context of a save as it resumes: matrix records admitted again at their places, the bundle at EPC at its
own, the latches with it. -/
def CtxSave.back (v : CtxSave) (r : Resume) (now : Nat) : Ctx :=
  let x := v.ctx
  let ms := v.mats.map fun m => { m with admitted := r.shift m.admitted, due := r.shift m.due }
  { x with
    run := if v.was = .loading ∨ v.was = .selected then .bound else v.was, mops := ms,
    regs := { x.regs with vmap := Vector.replicate 32 .unmapped, tok := x.regs.tok + ms.length, ld := 0, st := 0 },
    af := x.af.drop (ms.map (·.af.length)).sum, bf := x.bf.drop (ms.map (·.bf.length)).sum,
    mq := x.mq.drop (ms.map (·.mq.length)).sum,
    rts := Vector.ofFn fun n : Fin 8 => if ms.any fun m => m.rt == n then { x.rts[n] with busy := true } else x.rts[n],
    gaccs := [], flight := [], resumeAt := r.shift v.stop, npc := none, seg := 0, segs := [], exposed := false, hold := [],
    tookInts := [], tookDefer := [], tookDovf := [], reached := false, commitWait := false, atEntry := false, preempt := false,
    turnClocks := 0, turnFrom := now }

/-- The bank of a context reloaded from its kernel's MRAM code image (R33). -/
def Tile.reload (x : Tile) (v : CtxSave) : Tile :=
  match v.ctx.task with
  | some k =>
    let b := v.ctx.bank
    { x with banks := x.banks.set b { x.banks[b] with
        mem := Mem.writeBytes [] 0 (Mem.readBytes x.mram k.mramoff k.codesz), image := some (k.codeKey, k.code) } }
  | none => x

/-- A context restored from its save; its command records are issued again at the clock of its first record. -/
def State.restoreCtx (r : Resume) (s : State) (t : TileNo) (c : CtxNo) : State :=
  match r.ctxs[c] with
  | none => s
  | some v =>
    let s1 := s.onTile t fun x =>
      let y := (x.reload v).setCtx c (v.back r s.now)
      let z := v.ctx.frame.toList.foldl (fun y f => y.fillRegion c f) (y.restoreNames c v.ctx.regs.vmap v.vals)
      let again := v.cmds.filter fun k => k.stat != .complete && !k.journalled
      { z with
        cmds := z.cmds ++ v.cmds.filter fun k => k.stat == .complete || k.journalled,
        redo := z.redo ++ again.map fun k => (r.shift v.first, { k with ctx := c }) }
    (v.cmds.filter Cmd.journalled).foldl (fun s k => s.endCmd t k.id k.prog 0) (s1.enter t c)

/-- Poison among the units of a tile's sweep area, by the number of the 64-byte unit in the area. -/
def Tile.sweepPoison (x : Tile) : List Nat :=
  (x.mramPoison.filter fun u => decide (mramProg / 64 ≤ u)).map fun u => u - mramProg / 64

/-- The poison of the KEEP bays that a tile gets back from poisoned units. -/
def Resume.keepPoison (r : Resume) (x : Tile) : List Nat :=
  let at_ := (0x8000 + r.ctxUnits.length) / 64
  let places := r.keep.flatMap fun q => (List.range (q.2.length / 64)).map fun i => (x.bay q.1).base.toNat * 64 + i
  x.sweepPoison.filterMap fun u => if at_ ≤ u then places[u - at_]? else none

/-- A task that a poisoned swept unit is restored to is poisoned (R331); the units of the record itself and of KEEP bays
poison no task. -/
def State.restorePoison (s : State) (rs : List (TileNo × Resume)) : State :=
  let hit := fun (q : TileNo × Resume) => (s.tile q.1).sweepPoison.any fun u =>
    decide (0x8000 / 64 ≤ u ∧ u < (0x8000 + q.2.ctxUnits.length) / 64)
  match rs.find? hit with
  | some q => match allCtxs.find? fun c => (s.ctxAt q.1 c).run != .free with
    | some c => s.poisonTask q.1 c
    | none => s
  | none => s

/-- A tile of a resuming partition restored: in RUN where a task or a KEEP bay returns, else OFF. -/
def State.restoreTile (s : State) (t : TileNo) : State :=
  match (s.tile t).resume with
  | none => s
  | some r =>
    if (r.ctxs.toList.all (·.isNone)) ∧ r.keep.isEmpty then s.onTile t fun x => { x with resume := none }
    else
      let s1 := s.onTile t fun x =>
        let y := { x with
          resume := none, power := .run, cycle := 0, nextAt := s.now + s.tilePeriod t, idleClocks := 0,
          arrayFree := r.shift r.arrayFree }
        let z := r.keep.foldl (fun y q => y.writeSp ((y.bay q.1).base.toNat * 4096) q.2) y
        { z with spPoison := r.keepPoison x }
      allCtxs.foldl (fun s c => State.restoreCtx r s t c) s1

/-- A RUNNING queue whose ring lay in LPDDR-6 goes to ERROR with ECODE LOST (R366). -/
def State.loseRings (s : State) (f : FuncNo) : State :=
  (List.finRange 16).foldl (fun s q =>
    if (s.queue f q).state = .running ∧ !(s.queue f q).host then s.queueError f q 6 0 else s) s

/-- The CTL fields the Ballast captured go back to the table once its page can be written (R366). -/
def State.restoreCtl (s : State) (p : PartNo) : State :=
  let x := s.part p
  if x.ttCtl.isEmpty ∨ !s.canWrite p x.ttab 4096 then s
  else (x.ttCtl.zipIdx.foldl (fun s q => s.hubWrite p (x.ttab + 64 * q.2 + 24) [q.1]) s).onPart p fun x => { x with ttCtl := [] }

/-- Can an event be written to a function's ring now (R371)? -/
def State.canPost (s : State) (f : FuncNo) : Bool :=
  let x := s.func f
  let size := 2 ^ (x.evcfg.extractLsb' 0 5).toNat
  let a := (x.evbase.extractLsb' 12 40).toNat * 4096 + x.evtail.toNat % size * 32
  x.evcfg.getLsbD 6 && decide ((x.evtail - x.evhead).toNat < size)
    && (x.evcfg.getLsbD 5 || (x.part.map fun p => s.canWrite p a 32).getD false)

/-- Event 0x003, as soon as the ring can be written (R447). -/
def State.tellFaulted (s : State) (p : PartNo) : State :=
  if (s.part p).faulted ∧ s.canPost (s.funcOf p) then
    (s.onPart p fun x => { x with faulted := false }).postPart p 0x003 0 true 0 0
  else s

/-- What a partition that does not resume keeps of a tile: bays of launches are released, and an open
transaction is discarded. -/
def Tile.faultedTile (x : Tile) : Tile :=
  { x with resume := none, journal := none, bays := x.bays.map fun b => if b.launch.isSome then Bay.start else b }

/-- A partition that reports FAULTED (R447). -/
def State.faultPart (s : State) (p : PartNo) : State :=
  let f := s.funcOf p
  let s1 := ((s.tilesOf p).foldl (fun s t => s.onTile t Tile.faultedTile) s).onPart p fun x =>
    { x.empty with faulted := true }
  let s2 := (s1.onFunc f fun x => { x with queues := x.queues.map fun q =>
    if q.state = .running ∧ q.host then q.replay else { q with open_ := [] } }).loseRings f
  (s2.clearTable p).tellFaulted p

/-- Does every tile of a partition meet R329? A poisoned unit of the record fails its check. -/
def State.recordsHold (s : State) (p : PartNo) : Bool :=
  (s.tilesOf p).all fun t => match (s.tile t).resume with
    | some r => r.valid && (r.ctxs.toList.all fun v => (v.map (·.resumable)).getD true)
        && !(s.tile t).sweepPoison.any fun u => decide (u < 0x8000 / 64)
    | none => false

/-- Every launch of a partition looked at for its completion (R358): one whose last task wound down at the stop is
complete. -/
def State.checkLaunches (s : State) (p : PartNo) : State :=
  (s.part p).tasks.foldl (fun s e => match e.2.use with
    | some (.launch _) => s.checkLaunch p e.1
    | _ => s) s

/-- PARTITION_RESUME: the partition resumes, or reports FAULTED; either way it accepts commands again. -/
def execPartitionResume (p : PartNo) (s : State) : Out :=
  match (s.part p).resume with
  | none => .next s
  | some may =>
    let s0 := s.onPart p fun x => { x with resume := none }
    let rs := (s.tilesOf p).filterMap fun t => (s.tile t).resume.map fun r => (t, r)
    let s1 := if may ∧ s.recordsHold p then
        (((((s0.tilesOf p).foldl State.restoreTile s0).loseRings (s0.funcOf p)).restoreCtl p).sweepBays p).restorePoison rs
      else s0.faultPart p
    let s2 := (List.finRange 40).foldl (fun s k => if (s.clusters[k]).part = some p then s.relevel k else s) s1
    .next ((((s2.checkLaunches p).kick p).serve (s2.funcOf p)).ttWatch p)

/-! ### The safe tier (R393) -/

/-- The partitions a mask names. -/
def maskParts (m : BitVec 40) : List PartNo := (List.finRange 40).filter fun p => m.getLsbD p.val

/-- Has a context reached its pause: free, halted, stopped, or at a bundle at which R316 allows pre-emption? One whose
task is still on its way in or out has not. -/
def State.pausedAt (s : State) (t : TileNo) (c : CtxNo) : Bool :=
  match (s.ctxAt t c).run with
  | .bound => s.admitsPreempt t c
  | .free => true
  | .halted => true
  | .stopped => true
  | _ => false

/-- Every dirty byte of a partition's caches written back. -/
def State.flushPart (s : State) (p : PartNo) : State := (s.tilesOf p).foldl (fun s t => s.writeBack t none wholeSpace .grp) s

/-- SAFE_TIER_CHECKPOINT: the partitions are paused; once their contexts have stopped, caches are written back and
the regions written since the last checkpoint are copied, within 4 s, over the host link or with two ports beside it, which
shows in no state (log 53); then the partitions resume or stay paused. A region that holds a frame of a partition not named
is copied too, and stays marked for that partition's own checkpoint. -/
def execSafeTierCheckpoint (parts : BitVec 40) (stay : Bool) (s : State) : Out :=
  let again := fun (s : State) (hi : Nat) => s.sched (nanos 1) hi 1003 (.safeTierCheckpoint parts stay)
  let all := fun (s : State) (f : Partition → Partition) => (maskParts parts).foldl (fun s p => s.onPart p f) s
  if s.pkg.state ≠ .run then .next s
  else match s.pkg.check with
  | none =>
    let s1 := all { s with pkg := { s.pkg with check := some (parts, stay, false) } } fun x => { x with paused := true }
    .next (again s1 (nanos 1000))
  | some (_, _, copying) =>
    if s.agenda.any (fun d => match d.ev with
      | .safeTierCheckpoint .. => true
      | _ => false) then .next s
    else if copying then
      let s1 := { s with pkg := { s.pkg with check := none, checkpoints := s.pkg.checkpoints + 1 } }
      let s2 := if stay then s1 else all s1 fun x => { x with paused := false }
      .next ((maskParts parts).foldl (fun s p => (s.kick p).serve (s.funcOf p)) s2)
    else if (maskParts parts).any fun p => (s.tilesOf p).any fun t => allCtxs.any fun c => !s.pausedAt t c then
      .next (again s (nanos 1000))
    else
      let s1 := ((maskParts parts).foldl State.flushPart s).sysFlush
      let mine := fun (r : Nat) => (s1.frames.filter fun e => decide (e.1 / 32 = r)).all fun e => parts.getLsbD e.2.2.val
      .next (again { s1 with
        pkg := { s1.pkg with check := some (parts, stay, true) }, regions := s1.regions.filter fun r => !mine r }
        (nanos 4000000000))

end Sys2Proof.Machine
end

