-- ==== Sys2Proof/Machine/Errors.lean ====
section
/-! DEFINITION. Errors of stored and moving data where a check meets them (R331, R337, R382, R394, R395). -/

namespace Sys2Proof.Machine

/-- An error counted for the partition that owns the data, or for the PF alone (R382). -/
def State.countAt (s : State) (p : Option PartNo) (corrected : Bool) : State :=
  let i : Fin 6 := if corrected then 0 else 1
  match p with
  | some p => s.countErr p i
  | none => s.onFunc 0 (·.count i)

/-- A line of an L1 with an uncorrectable error: a dirty one is poisoned, a clean one is fetched again. -/
def State.badLine (s : State) (t : TileNo) (key : Nat) : State :=
  match s.line? t key with
  | some l => if l.anyDirty = 0 then s.eraseLine t key else s.setLine t key { l with bad := 15 }
  | none => s

/-- A line of a cluster cache with an uncorrectable error. -/
def State.badCline (s : State) (k : ClusterNo) (key : Nat) : State :=
  match s.cline? k key with
  | some l => if l.dirty = 0 then s.onCluster k fun x => { x with cache := Map.erase x.cache key }
    else s.setCline k key { l with bad := 15 }
  | none => s

/-- A line of the system cache with an uncorrectable error. -/
def State.badSys (s : State) (l : Nat) : State :=
  match Map.get? s.sysCache l with
  | some true => (List.range 4).foldl (fun s i => s.poisonHome (.dram (l * 256 + 64 * i))) s
  | some false => { s with sysCache := Map.erase s.sysCache l }
  | none => s

/-- The partition whose frame a place of device memory lies in. -/
def State.frameOwner (s : State) (pa : Nat) : Option PartNo := (Map.get? s.frames (pa / 2 ^ 16)).map (·.2)

/-- Whose data an error touched: none where only the PF counts it (R382). -/
def State.errOwner (s : State) (e : ErrAt) : Option PartNo :=
  match e with
  | .dram u => s.frameOwner (u * 64)
  | .mram t _ => s.partOf t
  | .scratch t _ => s.partOf t
  | .undo t _ => s.partOf t
  | .l1 t _ => s.partOf t
  | .cluster k _ => (s.clusters[k]).part
  | .system l => s.frameOwner (l * 256)
  | .engine t _ _ => s.partOf t
  | .node _ => none
  | .hub _ => none
  | .hostLink => none
  | .peer _ _ => none

/-- An error in the Lantern's store: the node is BAD, and the root of a tree, which is never marked so, has the
partition that owns it reset (R230, R247, R394). -/
def State.badNode (s : State) (n : Nat) : State :=
  match s.lantern.trees.find? fun (e : Nat × Tree) => e.2.root == n with
  | some e => s.resetPartition e.2.part 0
  | none => s.onNode n fun x => { x with bad := true }

/-- What an uncorrectable error does where it is found (R394). An error of LPDDR-6 behind a dirty line of the system cache is
overwritten with it. -/
def State.strikeAt (s : State) (e : ErrAt) : State :=
  match e with
  | .dram u => if Map.getD s.sysCache (u / 4) false then s else s.poisonHome (.dram (u * 64))
  | .mram t u => s.onTile t fun x => { x with mramPoison := markRegion x.mramPoison u }
  | .scratch t u => s.onTile t fun x => { x with spPoison := markRegion x.spPoison u }
  | .undo t i => s.onTile t fun x => { x with undo := x.undo.modify i fun u => { u with bad := true } }
  | .l1 t key => s.badLine t key
  | .cluster k key => s.badCline k key
  | .system l => s.badSys l
  | .node n => s.badNode n
  | .hub p => match p with
    | some p => s.resetPartition p 0
    | none => s
  | .engine t id i => s.onTile t fun x => x.onCmd id fun k =>
    if k.buf.isEmpty then { k with crcBad := true } else { k with buf := corruptUnit i k.buf }
  | .hostLink => s
  | .peer d u => s.poisonHome (.peer d (u * 64))

/-- An error found: one that the code corrects is counted and changes nothing else; one that moving data meets is counted
where its check fails (R395), and one of a peer's memory is the peer's to count (R382). -/
def State.memErr (s : State) (e : MemErr) : State :=
  if e.corrected then s.countAt (s.errOwner e.at_) true
  else match e.at_ with
    | .engine .. => s.strikeAt e.at_
    | .peer .. => s.strikeAt e.at_
    | _ => (s.countAt (s.errOwner e.at_) false).strikeAt e.at_

/-- The errors that checks meet by now: each waits for the tick at which a read or the scrubber meets it (log 6). -/
def State.meetErrs (s : State) : State :=
  (s.errs.filter fun e => decide (e.1 ≤ s.now)).foldl (fun s e => s.memErr e.2)
    { s with errs := s.errs.filter fun e => decide (s.now < e.1) }

end Sys2Proof.Machine
end

