-- ==== Sys2Proof/Machine/Clock.lean ====
section
/-! DEFINITION. A clock of a tile (R17, R31, R71, R113, R172, R204, R317, R359, R360, R391): what lands, what completes,
which context holds the turn, and its try to issue. -/

namespace Sys2Proof.Machine

/-- The state a step that cannot stop leaves. -/
def Out.state (o : Out) (s : State) : State :=
  match o with
  | .next s1 => s1
  | _ => s

/-- A clock begins: CYCLE moves on, no flag has been raised in it, and a context that cannot hold the turn holds it from
this clock on at the earliest (R360). -/
def Tile.tick (x : Tile) (period now : Nat) : Tile :=
  { x with
    cycle := x.cycle + 1, nextAt := x.nextAt + period,
    ctxs := x.ctxs.map fun k =>
      { k with flagsNow := 0, stkyNow := 0, turnFrom := if k.run = .bound then k.turnFrom else now } }

/-- What lands in a clock: results, matrix results, a finished spill or fill. -/
def Tile.land (x : Tile) : Tile :=
  (allCtxs.foldl (fun x c =>
    let y := x.landDue c
    y.setCtx c ((y.ctxs[c]).landDue y.cycle (y.ctxs[c]).mops)) x).endSpill

/-- The accesses of a context whose time has come, in issue order. -/
def State.dueAccs (s : State) (t : TileNo) (c : CtxNo) : List Nat :=
  let x := s.ctxAt t c
  ((x.pend ++ x.gaccs).filter fun g => g.stat == .outstanding && decide (g.due ≤ (s.tile t).cycle)).map (·.id)

/-- Does a segment entry commit in this clock? -/
def State.commitDue (s : State) (t : TileNo) (c : CtxNo) : Bool :=
  (s.ctxAt t c).segs.any fun e => !e.committed && decide (e.commitAt ≤ (s.tile t).cycle)

/-- A nest that waits for a load looks again; its next bundle issues in the clock after (R113). -/
def Ctx.wakeNest (x : Ctx) (now : Nat) : Ctx :=
  match x.regs.nest with
  | some n =>
    if !n.waiting then x
    else
      let y := x.resumeNest now
      if (y.regs.nest.map (·.waiting)) == some true then y else { y with resumeAt := max y.resumeAt (now + 1) }
  | none => x

/-- A step of the hub at a signal object (R284)? -/
def atSignal : Instr → Bool
  | .signalStep .. => true
  | .waitRegistration _ _ _ _ bar _ _ => !bar
  | _ => false

/-- A step at a signal object, carried out. -/
def State.signalDue (s : State) (d : Due) : State :=
  let s1 := { s with agenda := s.agenda.erase d }
  match d.ev with
  | .signalStep i p a v => (execSignalStep i p a v s1).state s
  | .waitRegistration t c p i bar o v => (execWaitRegistration t c p i bar o v s1).state s
  | _ => s

/-- The steps at signal objects that are due in this clock and come before those of a context: operations that arrive in
one clock are applied by tile, then by context (R127, R284). -/
def State.signalsBefore (s : State) (key : Nat) : State :=
  (s.agenda.filter fun d => decide (d.at_ ≤ s.now ∧ d.key < key) && atSignal d.ev).foldl State.signalDue s

/-- What completes for one context: accesses, segment commits, a waiting nest, an end of HALT (R129). -/
def State.completeCtx (s : State) (t : TileNo) (c : CtxNo) : State :=
  let ids := s.dueAccs t c
  let s0 := if ids.isEmpty then s else s.signalsBefore (orderKey t c)
  let s1 := ids.foldl (fun s id => (execGAccessCompletion t c id s).state s) s0
  let s2 := if s1.commitDue t c then (execSegmentCommit t c s1).state s1 else s1
  let s3 := s2.onCtx t c fun x => x.wakeNest (s2.tile t).cycle
  if (s3.ctxAt t c).run = .halted ∧ !(s3.ctxAt t c).ints.isEmpty then s3.onCtx t c fun x => { x with run := .bound } else s3

/-- The contexts whose wind-down came to its end in the clock before become free (R117). -/
def State.freeWound (s : State) (t : TileNo) : State :=
  allCtxs.foldl (fun s c => (execWindDownComplete t c s).state s) s

/-- A CFEED that found no room looks again once there is some (R168, R222). -/
def State.kickFeeds (s : State) (t : TileNo) : State :=
  (s.tile t).cmds.foldl (fun s k => match k.ins.ins with
    | .cfeed _ _ _ f _ =>
      let x := s.ctxAt t k.ctx
      if (x.room f || x.run == .winding) && !(s.agenda.any fun d => d.ev == .cfeedPanelAvailable t k.id) then
        s.sched 0 (nanos engineNs) (orderKey t k.ctx) (.cfeedPanelAvailable t k.id)
      else s
    | _ => s) s

/-- The free contexts of a tile ask for work, in order (R355, R356). -/
def State.askAll (s : State) (t : TileNo) : State :=
  allCtxs.foldl (fun s c => match s.ask t c with
    | some s1 => s1.bind t c
    | none => s) s

/-! ### The turn (R359) -/

/-- Can a context hold the turn? -/
def Ctx.holds (x : Ctx) : Bool := x.run == .bound

/-- The contexts of a tile from one on, in round-robin order. -/
def rounds (c : CtxNo) : List CtxNo := (List.range 4).map fun i => Fin.ofNat 4 (c.val + i)

/-- Does an event move the turn to a context at once: an enabled interrupt (R315), or a deferred fault that arrives in a
blocked WAITC on CP (R313; log 36)? -/
def State.urgent (s : State) (t : TileNo) (c : CtxNo) : Bool :=
  let x := s.ctxAt t c
  x.holds && (x.intEnabled || (!x.dq.isEmpty && match s.fetch t c with
    | .ok b => Bundle.waitsCp b && s.waitBlocks t c b
    | .error _ => false))

/-- The context that holds the turn in this clock: one with an event that moves the turn; else the holder keeps it while
it can, and the next in order has it after. -/
def State.holder (s : State) (t : TileNo) : Option CtxNo :=
  let order := (rounds (s.tile t).turn).filter fun c => (s.ctxAt t c).holds
  match order.find? fun c => s.urgent t c with
  | some c => some c
  | none => order.head?

/-- The turn moves to a context. -/
def Tile.giveTurn (x : Tile) (c : CtxNo) (now : Nat) : Tile :=
  if x.turn = c then x else { x with turn := c }.setCtx c { x.ctxs[c] with turnFrom := now }

/-- After a block the next context in order has the turn in the next clock. -/
def Tile.passTurn (x : Tile) (c : CtxNo) (now : Nat) : Tile :=
  let y := x.setCtx c { x.ctxs[c] with turnFrom := now }
  match ((rounds c).drop 1).find? fun d => (y.ctxs[d]).holds with
  | some d => y.giveTurn d now
  | none => y

/-! ### The try to issue -/

/-- Does the Ballast's request stop a context at its bundle: a D bundle that meets the drain condition, LD = 0? -/
def State.stopsHere (s : State) (t : TileNo) (c : CtxNo) (b : Bundle) : Bool :=
  s.pkg.state == .holdUp && s.entryPoint t c b && s.drained t c

/-- Does the Ballast's request stop a context at the entry to which a strike has rolled it back, before any event of that
boundary (R35)? -/
def State.stopsAtEntry (s : State) (t : TileNo) (c : CtxNo) : Bool := s.pkg.state == .holdUp && (s.ctxAt t c).atEntry

/-- Is a context parked by a pause of its partition (R393)? -/
def State.parked (s : State) (t : TileNo) (c : CtxNo) : Bool :=
  match s.partOf t with
  | some p => (s.part p).paused && s.admitsPreempt t c
  | none => false

/-- The bundle of a context that stands at a boundary with no event: a stop, its own fault (R303), a pause, a
pre-emption (R316), or its issue. -/
def State.tryNext (s : State) (t : TileNo) (c : CtxNo) : State × Tried :=
  match s.nextBundle t c with
  | .error s1 => (s1, .event)
  | .ok b =>
    let s1 := s.reach t c b
    if s1.stopsHere t c b then (s1.drainStop t c, .event)
    else if s1.wouldTrap t c b then s1.tryBundle t c b
    else if s1.parked t c then (s1, .blocked)
    else if s1.pkg.state == .run && s1.preempts t c then (s1.beginSave t c, .event)
    else (s1.reachWait t c b).tryBundle t c b

/-- Does the nest of a context wait for a load of an armed register (R113)? -/
def State.nestWaits (s : State) (t : TileNo) (c : CtxNo) : Bool := ((s.ctxAt t c).regs.nest.map (·.waiting)) == some true

/-- A boundary of a context: what ERET left for it comes first, then the events of R303, then its bundle (R310, R405). -/
def State.boundary (s : State) (t : TileNo) (c : CtxNo) : State × Tried :=
  let r := s.reinjectPend t c
  if !r.2 then (r.1, .stalled)
  else match r.1.takeEvent t c with
  | some s1 => (s1, .event)
  | none => if r.1.nestWaits t c then (r.1, .stalled) else r.1.tryNext t c

/-- A clock of the context that holds the turn. -/
def State.attempt (s0 : State) (t : TileNo) (c : CtxNo) : State × Tried :=
  let s := { s0 with cur := .hw t c }
  if !s.atBoundary t c then (s, .stalled)
  else if s.stopsAtEntry t c then (s.entryStop t c, .event)
  else s.boundary t c

/-- What a try leaves behind: the turn, the clocks held without an issue, the cluster's counters. -/
def State.settle (s : State) (t : TileNo) (c : CtxNo) (r : Tried) (period : Nat) : State :=
  match r with
  | .issued => (s.onCtx t c fun x => { x with turnClocks := 0 }).onCluster (clusterOf t) fun k => { k with crun := k.crun + 1 }
  | .blocked => (s.onCtx t c fun x => { x with turnClocks := x.turnClocks + period }).onTile t fun x => x.passTurn c s.now
  | _ => s.onCtx t c fun x => { x with turnClocks := x.turnClocks + period }

/-- Is a bound context that does not hold the turn stalled or blocked in this clock: at no boundary, with a nest that
waits, or with a bundle that would stall or block? -/
def State.heldBack (s0 : State) (t : TileNo) (c : CtxNo) : Bool :=
  let s := { s0 with cur := .hw t c }
  !s.atBoundary t c || (s.takeEvent t c).isNone && (s.nestWaits t c || match s.fetch t c with
    | .error _ => false
    | .ok b => match s.verdictOf t c b with
      | .trap _ _ => false
      | .go effs _ combo =>
        let x := s.ctxAt t c
        combo.isNone && ((s.onCtx t c fun x => x.issuing b (x.regs.heldFor b) false).relaunchAll t c |>.applyEffects effs).isNone
          && x.run == .bound
      | _ => true)

/-- Is every bound context of a tile stalled or blocked in a clock in which the holder of the turn did not issue (R391)? -/
def State.allHeld (s : State) (t : TileNo) (c : CtxNo) (r : Tried) : Bool :=
  (r == .blocked || r == .stalled) && allCtxs.all fun d =>
    let k := s.ctxAt t d
    k.run == .free || (k.run == .bound && (d == c || s.heldBack t d))

/-- The requests of R324 and R360 on the context that holds the turn; a request whose cause has gone ends. -/
def State.requests (s : State) (t : TileNo) (c : CtxNo) : State :=
  let s1 := if (s.ctxAt t c).preempt ∧ !s.quantumCause t c then s.onCtx t c fun x => { x with preempt := false } else s
  let s2 := (execQuantumExpiry t c s1).state s1
  (execWatchdogExpiry t c s2).state s2

/-- A clock in which no bundle of a tile issues takes a known-answer operation, which is counted (R322; one for each such
clock, DESIGN CHOICE, log 93). -/
def State.knownAnswer (s : State) (t : TileNo) : State := s.onTile t fun x => { x with tests := x.tests + 1 }

/-- The turn and the issue of a clock. -/
def State.issueClock (s : State) (t : TileNo) : State :=
  if s.forceDue then allCtxs.foldl (fun s c => (execForcedLatchSave t c s).state s) s
  else match s.holder t with
  | none => s.knownAnswer t
  | some c =>
    let r := (s.onTile t fun x => x.giveTurn c s.now).attempt t c
    let s0 := if r.2 == .issued then r.1 else r.1.knownAnswer t
    let s1 := s0.settle t c r.2 (s.tilePeriod t)
    let s2 := if s1.allHeld t c r.2 then s1.onCluster (clusterOf t) fun k => { k with cstall := k.cstall + 1 } else s1
    s2.requests t c

/-- A quiet tile counts towards IDLE (R386). -/
def State.idleClock (s : State) (t : TileNo) : State :=
  let x := s.tile t
  if x.quiet then
    let s1 := s.setTile t { x with idleClocks := x.idleClocks + 1 }
    (execTileIdle t s1).state s1
  else if x.idleClocks = 0 then s
  else s.setTile t { x with idleClocks := 0 }

/-- A clock of a tile in RUN: errors that are met, contexts whose wind-down has ended, what lands and completes, the words of
copies into its banks, contexts that ask for work, then the try to issue. -/
def State.tileClock (s : State) (t : TileNo) : State :=
  let s1 := (s.meetErrs.freeWound t).onTile t fun x => (x.tick (s.tilePeriod t) s.now).land
  let s2 := allCtxs.foldl (fun s c => s.completeCtx t c) (s1.reissueDue t)
  let s3 := ((s2.landBanks t).kickFeeds t).askAll t
  (s3.issueClock t).idleClock t

end Sys2Proof.Machine
end

