-- ==== Sys2Proof/Machine/Paging.lean ====
section
/-! DEFINITION. Frames, page tables and the changes of mappings by proposal (R299, R336, R338 to R341, R372 to R374). -/

namespace Sys2Proof.Machine

/-! ### Frames (R336, R372) -/

/-- The frames of device memory. -/
def frameCount : Nat := dramSize / 2 ^ 16

/-- A frame's state and owner, none where it is FREE. -/
def State.frame? (s : State) (n : Nat) : Option (FrameState × PartNo) := Map.get? s.frames n

def State.setFrame (s : State) (n : Nat) (v : FrameState) (p : PartNo) : State := { s with frames := Map.set s.frames n (v, p) }

/-- A frame of a partition changed from one state to another, where it stands in the first. -/
def State.moveFrame (s : State) (p : PartNo) (v w : FrameState) (n : Nat) : State :=
  if s.frame? n = some (v, p) then s.setFrame n w p else s

/-- Does a frame's colour suit a partition: any for an ordinary one, one of COLOURS for a protected one (R336, R373)? -/
def State.suits (s : State) (x : Partition) (n : Nat) : Bool :=
  !x.prot || x.colours.getLsbD (s.colourOf (n * 2 ^ 16))

/-- Is a frame's colour one of a live protected partition, which no ordinary one shares (R368)? -/
def State.sealedColour (s : State) (n : Nat) : Bool :=
  s.parts.toList.any fun y => y.live && y.prot && y.colours.getLsbD (s.colourOf (n * 2 ^ 16))

/-- A frame in SCRUB: it is overwritten within 1 ms (log 16). -/
def State.scrub (s : State) (p : PartNo) (again : Bool) (n : Nat) : State :=
  (s.setFrame n (.scrub again) p).sched 0 (nanos 1000000) 1003 (.scrubComplete n)

/-- A partition's frames. -/
def State.framesOf (s : State) (p : PartNo) : List Nat := (s.frames.filter fun e => e.2.2 == p).map (·.1)

/-- SCRUB_COMPLETE: the frame holds zeros, and becomes FREE or ASSIGNED again; the root of a partition's tables holds tables
again (log 33). -/
def execScrubComplete (frame : Nat) (s : State) : Out :=
  match s.frame? frame with
  | some (.scrub again, p) =>
    let lo := frame * 2 ^ 16
    let inFrame := fun (h : Home) => match h with
      | .dram a => decide (lo ≤ a ∧ a < lo + 2 ^ 16)
      | _ => false
    .next { s with
      regions := markRegion s.regions (frame / 32),
      sysCache := s.sysCache.filter fun (e : Nat × Bool) => decide (e.1 / 256 ≠ frame),
      dram := s.dram.filter fun c => decide (c.1 < lo ∨ lo + 2 ^ 16 ≤ c.1),
      poison := s.poison.filter fun u => decide (u * 64 < lo ∨ lo + 2 ^ 16 ≤ u * 64),
      syncLines := s.syncLines.filter fun l => !inFrame l.home, incomplete := s.incomplete.filter fun h => !inFrame h,
      frames := if !again then Map.erase s.frames frame
        else Map.set s.frames frame (if frame = (s.part p).tframe / 2 ^ 16 then .table else .assigned, p) }
  | _ => .next s

/-! ### Tables (R338, R373) -/

def State.setEntry (s : State) (p : PartNo) (a : Nat) (w : Word) : State :=
  s.onPart p fun x => { x with pt := if w = 0 then Map.erase x.pt a else Map.set x.pt a w }

/-- The first number from `lo` on, in a circle of `frameCount`, that a test admits. -/
def firstFrame (ok : Nat → Bool) (lo : Nat) : Nat → Option Nat
  | 0 => none
  | n + 1 => if ok (lo % frameCount) then some (lo % frameCount) else firstFrame ok (lo + 1) n

/-- Room for a table: behind the last one, or in a TABLE frame that the security core takes from the FREE ones of a colour
that the partition may use (R336, R368); which one, the manual does not say. -/
def State.newTable (s : State) (p : PartNo) (size : Nat) : Option (State × Nat) :=
  let x := s.part p
  let a := (x.tableNext + size - 1) / size * size
  if a % 2 ^ 16 ≠ 0 then some (s.onPart p fun x => { x with tableNext := a + size }, a)
  else
    let ok := fun n => (s.frame? n).isNone && s.suits x n && (x.prot || !s.sealedColour n)
    (firstFrame ok (s.free 24).toNat frameCount).map fun n =>
      ((s.drew.setFrame n .table p).onPart p fun x => { x with tableNext := n * 2 ^ 16 + size }, n * 2 ^ 16)

/-- The table an entry points to, built where there is none. -/
def State.tableAt (s : State) (p : PartNo) (entry size : Nat) : Option (State × Nat) :=
  let e := Map.getD (s.part p).pt entry 0
  if e.getLsbD 0 then some (s, pointerTo e)
  else (s.newTable p size).map fun q => (q.1.setEntry p entry (BitVec.ofNat 64 (q.2 + 1)), q.2)

/-- A leaf entry written, with the tables above it; none where no frame is left for a table. -/
def State.putLeaf (s : State) (p : PartNo) (va : Nat) (big : Bool) (w : Word) : Option State :=
  (s.tableAt p ((s.part p).tframe + 8 * (va / 2 ^ 39)) 4096).bind fun q1 =>
  (q1.1.tableAt p (q1.2 + 8 * (va / 2 ^ 30 % 512)) 4096).bind fun q2 =>
    let e3 := q2.2 + 8 * (va / 2 ^ 21 % 512)
    if big then some (q2.1.setEntry p e3 w)
    else (q2.1.tableAt p e3 256).map fun q3 => q3.1.setEntry p (q3.2 + 8 * (va / 2 ^ 16 % 32)) w

/-- The entries of a table, with their indices. -/
def entriesOf (pt : Map Word) (base n : Nat) : List (Nat × Word) :=
  (pt.filter fun e => decide (base ≤ e.1 ∧ e.1 < base + 8 * n)).map fun e => ((e.1 - base) / 8, e.2)

/-- The valid leaves of a partition's tree with their addresses. -/
def leavesOf (pt : Map Word) (root : Nat) : List (Nat × Leaf) :=
  (entriesOf pt root 8192).flatMap fun e1 =>
  (entriesOf pt (pointerTo e1.2) 512).flatMap fun e2 =>
  (entriesOf pt (pointerTo e2.2) 512).flatMap fun e3 =>
    let va := e1.1 * 2 ^ 39 + e2.1 * 2 ^ 30 + e3.1 * 2 ^ 21
    if e3.2.getLsbD 1 then [(va, ⟨e3.2, true⟩)]
    else (entriesOf pt (pointerTo e3.2) 32).map fun e4 => (va + e4.1 * 2 ^ 16, ⟨e4.2, false⟩)

def State.leaves (s : State) (p : PartNo) : List (Nat × Leaf) := leavesOf (s.part p).pt (s.part p).tframe

/-- Is a leaf local and device-bias? -/
def Leaf.isLocal (l : Leaf) : Bool := !l.hb && !l.isPeer

/-- The frames a local leaf names. -/
def Leaf.frames (l : Leaf) : List Nat :=
  if l.isLocal then (List.range (l.size / 2 ^ 16)).map (l.frame / 2 ^ 16 + ·) else []

/-- The 64 KiB units of a page. -/
def Leaf.units (l : Leaf) : Nat := l.size / 2 ^ 16

/-- Frames that a leaf has left are ASSIGNED again where no other leaf names them (R373). -/
def State.leaveFrames (s : State) (p : PartNo) (l : Leaf) : State :=
  let used := (s.leaves p).flatMap fun e => e.2.frames
  l.frames.foldl (fun s n => if used.contains n then s else s.moveFrame p .mapped .assigned n) s

/-- The POOL units of a partition counted anew. -/
def State.countPool (s : State) (p : PartNo) : State :=
  let n := ((s.leaves p).map fun e => if e.2.pool then e.2.units else 0).sum
  s.onPart p fun x => { x with poolUsed := n }

/-- Stores to a page that have passed its translation and are still held are performed: their contexts are exposed (R299,
R340; DESIGN CHOICE, log 94). -/
def State.performHeld (s : State) (p : PartNo) (va n : Nat) : State :=
  (s.tilesOf p).foldl (fun s t => allCtxs.foldl (fun s c =>
    if (s.ctxAt t c).hold.any (fun h => match h.kind with
      | .store _ ea bs true => meets (ea, bs.length) (va, n)
      | _ => false) then s.expose t c else s) s) s

/-- Every store to a page performed, every cached line of it written back and dropped (R299, R340). -/
def State.drainPage (s0 : State) (p : PartNo) (va n : Nat) : State :=
  let s := s0.performHeld p va n
  let s1 := (s.tilesOf p).foldl (fun s t => (s.lineKeys t p [(va, n)]).foldl (fun s k => s.evictLine t k) s) s
  (List.finRange 40).foldl (fun s k => (s.clineKeys k p [(va, n)]).foldl (fun s key => s.dropCline k key) s) s1

/-! ### Proposals (R373, R374) -/

/-- The codes of MBCMD.STATUS (R376). -/
def stOk : Nat := 0
def stBadArg : Nat := 1
def stDenied : Nat := 2
def stBusy : Nat := 3
def stLocked : Nat := 4
def stProtected : Nat := 5

/-- A mapping proposal; `sound` tells that no reserved byte is set and that OP and SIZE are tabled. -/
structure Proposal where
  va : Nat
  leaf : Word
  op : Nat
  big : Bool
  sound : Bool
  deriving DecidableEq, Repr

/-- A proposal of the ring. -/
def parseProposal (bs : List Byte) : Proposal :=
  let op := leAt bs 16 1
  let size := leAt bs 17 1
  ⟨leAt bs 0 8, BitVec.ofNat 64 (leAt bs 8 8), op, size == 1, op < 4 && size < 2 && zeroAt bs 19 13⟩

/-- May a function propose for a partition (R374)? -/
def State.mayPropose (s : State) (f : FuncNo) (p : PartNo) : Bool :=
  let own := f == s.funcOf p
  if !(s.part p).prot then f == 0 || own
  else match (s.func (s.funcOf p)).tdisp with
    | .unlocked => f == 0
    | .locked => own
    | .run => own
    | .error => false

/-- The page a proposal names, where it is present as a whole and no change of it is under way. -/
def State.present (s : State) (p : PartNo) (k : Proposal) : Option Leaf :=
  if (s.part p).jobs.any fun j => j.va == k.va then none
  else match s.leaf p k.va with
  | some l => if l.big = k.big then some l else none
  | none => none

/-- Is some part of a page valid? -/
def State.partValid (s : State) (p : PartNo) (k : Proposal) : Bool :=
  (List.range (if k.big then 32 else 1)).any fun i => (s.leaf p (k.va + i * 2 ^ 16)).isSome

/-- The bits of an entry under a mask taken from another. -/
def mixBits (m a b : Word) : Word := (a &&& ~~~m) ||| (b &&& m)

/-- The entry a proposal would leave: none for a removal, and where the page it changes is not present. -/
def State.proposed (s : State) (p : PartNo) (k : Proposal) : Option Word :=
  match k.op with
  | 0 => some k.leaf
  | 2 => (s.present p k).map fun l => mixBits 0xFFFFFFFFF0000 (l.w ^^^ 8) k.leaf
  | 3 => (s.present p k).map fun l => mixBits 0x24 l.w k.leaf
  | _ => none

/-- The POOL units a partition would have with a leaf more. -/
def State.poolWith (s : State) (p : PartNo) (l : Leaf) : Nat := (s.part p).poolUsed + (if l.pool then l.units else 0)

/-- The DENIED reasons of R373. -/
def State.denies (s : State) (f : FuncNo) (p : PartNo) (k : Proposal) : Bool :=
  !s.mayPropose f p || (if k.op = 0 ∨ k.op = 2 then match s.proposed p k with
    | some w =>
      let l : Leaf := ⟨w, k.big⟩
      (l.frames.any fun n => s.frame? n != some (.assigned, p) && s.frame? n != some (.mapped, p))
        || (l.frames.any fun n => !s.suits (s.part p) n) || (k.op == 0 && decide ((s.part p).poollim < s.poolWith p l))
    | none => false
  else false)

/-- The BAD_ARG reasons of R373. -/
def State.malformed (s : State) (p : PartNo) (k : Proposal) : Bool :=
  !k.sound || decide (2 ^ 52 ≤ k.va) || k.va % (if k.big then 2 ^ 21 else 2 ^ 16) != 0
    || (if k.op = 0 then s.partValid p k || (s.part p).jobs.any (fun j => j.va == k.va) else (s.present p k).isNone)
    || (match s.proposed p k with
      | some w => !Leaf.ok ⟨w, k.big⟩
      | none => false)

/-- A change of a present leaf starts: it takes effect at its completion, within 100 µs (log 16). A flip drains the page
first: an access that comes while it runs waits, and what the hub itself writes there the copy carries over (R299). -/
def State.startJob (s0 : State) (p : PartNo) (j : PageJob) : State :=
  let s := if j.flip then s0.drainPage p j.va (if j.big then 2 ^ 21 else 2 ^ 16) else s0
  (s.onPart p fun x => { x with jobs := x.jobs ++ [j] }).sched 0 (nanos 100000) 1003
    (if j.flip then .flipComplete p j.va else .mappingRemovalComplete p j.va)

/-- A new entry stands: its frames are MAPPED. -/
def State.addLeaf (s : State) (p : PartNo) (va : Nat) (big : Bool) (w : Word) : Option State :=
  (s.putLeaf p va big w).map fun s1 =>
    ((Leaf.frames ⟨w, big⟩).foldl (fun s n => s.moveFrame p .assigned .mapped n) s1).countPool p

/-- A proposal performed: its status, none where it is under way. -/
def State.propose (s : State) (f : FuncNo) (p : PartNo) (src : PropSrc) (k : Proposal) : State × Option Nat :=
  if s.denies f p k then (s, some stDenied)
  else if s.malformed p k then (s, some stBadArg)
  else match k.op, s.present p k, s.proposed p k with
  | 0, _, some w => match s.addLeaf p k.va k.big w with
    | some s1 => ((s1.restoreCtl p).tellFaulted p, some stOk)
    | none => (s, some stDenied)
  | 1, _, _ => (s.startJob p ⟨k.va, k.big, none, false, some src, []⟩, none)
  | 2, _, some w => (s.startJob p ⟨k.va, k.big, some w, true, some src, []⟩, none)
  | 3, some _, some w => (s.startJob p ⟨k.va, k.big, some w, false, some src, []⟩, none)
  | _, _, _ => (s, some stBadArg)

/-! ### The proposal ring (R373) -/

/-- The address of the entry at MPHEAD. -/
def Func.proposalAt (x : Func) : Nat :=
  (x.mpbase.extractLsb' 12 40).toNat * 4096 + 32 * (x.mphead.toNat % 2 ^ (x.mpcfg.extractLsb' 0 4).toNat)

/-- A proposal of a ring is answered: STATUS, then MPHEAD, then vector 2. -/
def State.answerRing (s : State) (f : FuncNo) (p : PartNo) (status : Nat) : State :=
  (s.hubWrite p ((s.func f).proposalAt + 18) [BitVec.ofNat 8 status]).onFunc f fun x =>
    ({ x with mphead := x.mphead + 1 }).signal 2

/-- The proposal at the head of a ring that is served: enabled, not empty, no proposal of it under way, and its
entry can be read. -/
def State.headProposal (s : State) (f : FuncNo) : Option (PartNo × Proposal) :=
  let x := s.func f
  match x.part with
  | none => none
  | some p =>
    if x.mpcfg.getLsbD 5 ∧ x.mptail ≠ x.mphead ∧ s.hears f ∧ !((s.part p).jobs.any fun j => j.src == some (.ring f)) then
      (s.hubRead p x.proposalAt 32).map fun bs => (p, parseProposal bs)
    else none

/-- One proposal of a ring: none where none is served. -/
def State.ringStep (s : State) (f : FuncNo) : Option State :=
  (s.headProposal f).map fun q =>
    let r := s.propose f q.1 (.ring f) q.2
    match r.2 with
    | some st => r.1.answerRing f q.1 st
    | none => r.1

/-- The proposals of a ring in order, until one is under way. -/
def State.runRing (s : State) (f : FuncNo) : Nat → State
  | 0 => s
  | n + 1 => match s.ringStep f with
    | some s1 => s1.runRing f n
    | none => s

/-- A ring served. -/
def State.serveRing (s : State) (f : FuncNo) : State := s.runRing f ((s.func f).mptail - (s.func f).mphead).toNat

/-- The proposal at the head of a ring, if its OP is `op`, and those behind it. -/
def State.ringOp (s : State) (f : FuncNo) (op : Nat) : State :=
  match s.headProposal f with
  | some q => if q.2.op = op then s.serveRing f else s
  | none => s

/-- MPTAIL. -/
def execMptail (f : FuncNo) (v : Word) (s : State) : Out :=
  if s.hears f then .next ((s.onFunc f fun x => { x with mptail := v.extractLsb' 0 32 }).serveRing f) else .next s

/-- PROTECT, an OP of the ring only. -/
def execProtect (f : FuncNo) (s : State) : Out := .next (s.ringOp f 3)

/-! ### Verbs (R376) -/

/-- Is a verb of a function under way? -/
def State.verbBusy (s : State) (f : FuncNo) : Bool := (s.func f).mbcmd.getLsbD 31

/-- A verb ends: STATUS is written, GO cleared, vector 1 signalled. -/
def State.verbDone (s : State) (f : FuncNo) (status : Nat) : State :=
  s.onFunc f fun x => ({ x with mbcmd := (x.mbcmd &&& 0xFF) ||| BitVec.ofNat 64 (status * 256) }).signal 1

/-- A measured verb joins the attested configuration of its partition, with its arguments. -/
def State.measure (s : State) (f : FuncNo) (p : PartNo) : State :=
  let x := s.func f
  s.onPart p fun y => { y with measured := y.measured ++ [(x.mbcmd &&& 0xFF) :: x.mbarg.toList] }

/-- A verb that is measured for protected partitions ends. -/
def State.tenantDone (s : State) (f : FuncNo) (p : PartNo) (status : Nat) : State :=
  (if status = stOk ∧ (s.part p).prot then s.measure f p else s).verbDone f status

/-- A verb as MBCMD with GO = 1 starts it: dropped while another is under way; `go` answers the status, none where
the verb goes on. -/
def State.mailVerb (s : State) (f : FuncNo) (code : Nat) (go : State → State × Option Nat) : Out :=
  if !s.hears f ∨ s.verbBusy f then .next s
  else
    let r := go (s.onFunc f fun x => { x with mbcmd := BitVec.ofNat 64 (code + 2 ^ 31) })
    .next (match r.2 with
      | some st => r.1.verbDone f st
      | none => r.1)

def State.arg (s : State) (f : FuncNo) (i : Fin 4) : Nat := ((s.func f).mbarg[i]).toNat

/-- A live partition by its number. -/
def State.livePart (s : State) (n : Nat) : Option PartNo :=
  if h : n < 40 then (if (s.part ⟨n, h⟩).live then some ⟨n, h⟩ else none) else none

/-- The partition a verb means: its own for a VF; for the PF the one a word names. -/
def State.verbPart (s : State) (f : FuncNo) (n : Nat) : Option PartNo := if f = 0 then s.livePart n else (s.func f).part

/-- Is a partition protected, and its interface locked (R376, R378)? -/
def State.closed (s : State) (p : PartNo) : Bool := (s.part p).prot && (s.func (s.funcOf p)).isLocked

/-- A proposal by verb. -/
def State.proposeVerb (f : FuncNo) (op : Nat) (s : State) : State × Option Nat :=
  match s.verbPart f (s.arg f 3) with
  | none => (s, some (if f = 0 then stBadArg else stDenied))
  | some p =>
    if f = 0 ∧ s.closed p then (s, some stLocked)
    else
      let size := s.arg f 2
      let r := s.propose f p (.mailbox f) ⟨s.arg f 0, BitVec.ofNat 64 (s.arg f 1), op, size == 1, decide (size < 2)⟩
      match r.2 with
      | some st => ((if st = stOk ∧ (s.part p).prot then r.1.measure f p else r.1), some st)
      | none => r

/-- MAP, of the mailbox or of a ring. -/
def execMap (src : PropSrc) (s : State) : Out :=
  match src with
  | .mailbox f => s.mailVerb f 5 (State.proposeVerb f 0)
  | .ring f => .next (s.ringOp f 0)

/-- UNMAP. -/
def execUnmap (src : PropSrc) (s : State) : Out :=
  match src with
  | .mailbox f => s.mailVerb f 6 (State.proposeVerb f 1)
  | .ring f => .next (s.ringOp f 1)

/-- BIAS. -/
def execBias (src : PropSrc) (s : State) : Out :=
  match src with
  | .mailbox f => s.mailVerb f 7 (State.proposeVerb f 2)
  | .ring f => .next (s.ringOp f 2)

/-! ### Completions (R299, R340, R376) -/

/-- A change of a page that is under way. -/
def State.job? (s : State) (p : PartNo) (va : Nat) (flip : Bool) : Option PageJob :=
  (s.part p).jobs.find? fun j => j.va == va && j.flip == flip

/-- The frames a RECLAIM names. -/
def State.reclaimed (s : State) : List Nat := (List.range (s.arg 0 1)).map (s.arg 0 0 + ·)

/-- Is a RECLAIM under way? -/
def State.reclaiming (s : State) : Bool := s.verbBusy 0 && ((s.func 0).mbcmd &&& 0xFF) == 4

/-- The key of a partition with no frame left but its tables' is destroyed, and what its MRAM slices hold under it can be
read no more (R375, log 2). -/
def State.dropKey (s : State) (p : PartNo) : State :=
  if s.frames.any fun e => e.2 == (.assigned, p) || e.2 == (.mapped, p) || e.2 == (.scrub true, p) then s
  else (s.tilesOf p).foldl (fun s t => s.onTile t fun x => { x with mram := [], mramPoison := [] })
    (s.onPart p fun x => { x with key := none })

/-- A RECLAIM whose pages are all unmapped: its frames go to SCRUB, and the verb ends. -/
def State.endReclaim (s : State) : State :=
  let ps := (s.reclaimed.filterMap fun n => (s.frame? n).map (·.2)).eraseDups
  let s1 := s.reclaimed.foldl (fun s n => match s.frame? n with
    | some e => s.scrub e.2 false n
    | none => s) s
  (ps.foldl (fun s p => (s.measure 0 p).dropKey p) s1).verbDone 0 stOk

/-- The pages of a partition that a RECLAIM unmaps. -/
def State.pagesOver (s : State) (p : PartNo) (ns : List Nat) : List (Nat × Leaf) :=
  (s.leaves p).filter fun e => e.2.frames.any fun n => ns.contains n

/-- Will a change of a page that is under way make a leaf name one of the frames? -/
def PageJob.takes (j : PageJob) (ns : List Nat) : Bool :=
  match j.leaf with
  | some w => (Leaf.frames ⟨w, j.big⟩).any fun n => ns.contains n
  | none => false

/-- A RECLAIM under way goes on: the pages that name its frames are removed, those that come to name them meanwhile too;
once none is left, and no change under way will make one, it ends (R372). -/
def State.pushReclaim (s : State) : State :=
  if !s.reclaiming then s
  else
    let ns := s.reclaimed
    let ps := ((List.finRange 40).filter fun p => (s.part p).live).map fun p => (p, s.pagesOver p ns)
    if ps.all fun q => q.2.isEmpty && !(s.part q.1).jobs.any fun j => j.takes ns then s.endReclaim
    else ps.foldl (fun s q => q.2.foldl (fun s e =>
      if (s.part q.1).jobs.any fun j => j.va == e.1 then s
      else s.startJob q.1 ⟨e.1, e.2.big, none, false, none, []⟩) s) s

/-- The answer to a proposal that has completed; a RECLAIM that waits for pages goes on. -/
def State.answer (s : State) (p : PartNo) (src : Option PropSrc) : State :=
  (match src with
  | none => s
  | some (.ring f) => (s.answerRing f p stOk).serveRing f
  | some (.mailbox f) => s.tenantDone f p stOk).pushReclaim

/-- The entry of a page made invalid, then written anew (R340). -/
def State.swapLeaf (s : State) (p : PartNo) (j : PageJob) : State :=
  let s1 := (s.putLeaf p j.va j.big 0).getD s
  match j.leaf with
  | some w => (s1.putLeaf p j.va j.big w).getD s1
  | none => s1

/-- The entry of a page changed, its old frames left, its change no longer under way. -/
def State.applyJob (s : State) (p : PartNo) (j : PageJob) (old : Option Leaf) : State :=
  let s2 := (s.onPart p fun x => { x with jobs := x.jobs.filter fun k => k != j }).swapLeaf p j
  let s3 := match j.leaf with
    | some w => (Leaf.frames ⟨w, j.big⟩).foldl (fun (s : State) n => s.moveFrame p .assigned .mapped n) s2
    | none => s2
  (match old with
  | some l => s3.leaveFrames p l
  | none => s3).countPool p

/-! ### Engine commands under way (R260, R340) -/

/-- The global ranges that a command has started to read (R213, R340). -/
def State.srcRanges (s : State) (k : Cmd) : List (Nat × Nat) :=
  match k.ins.ins with
  | .snget .. => s.lantern.nodes.filterMap fun n =>
      if k.cover.contains (nodeKey n.1 (s.lantern.gen n.1)) then some (n.2.paddr, n.2.plen) else none
  | _ => k.srcs

/-- The nodes whose payload an SNGET reads in a page become BAD (R341). -/
def State.nodesGone (s : State) (k : Cmd) (q : Nat × Nat) : State :=
  match k.ins.ins with
  | .snget .. => (s.lantern.nodes.filter fun n =>
      k.cover.contains (nodeKey n.1 (s.lantern.gen n.1)) && meets (n.2.paddr, n.2.plen) q).foldl
        (fun s n => s.onNode n.1 fun x => { x with bad := true }) s
  | _ => s

/-- A command under way that reads a page whose mapping goes, a copy or a COLL, faults where a unit of it is still to be
translated; whether one is, its progress decides, which is free (R340, log 4). -/
def State.copiesLose (s : State) (p : PartNo) (q : Nat × Nat) : State :=
  (s.tilesOf p).foldl (fun s t => (s.tile t).cmds.foldl (fun s k =>
    if k.stat = .started ∧ (s.srcRanges k).any fun r => meets r q then
      (if (s.free 1).getLsbD 0 then (s.drew.nodesGone k q).faultCmd t k.id 7 (BitVec.ofNat 64 q.1) else s.drew)
    else s) s) s

/-- MAPPING_REMOVAL_COMPLETE: every access that used the old translation has been performed, and the entry is invalid.
Where it changes, the new entry is written within 1 µs after (R340, log 16). -/
def execMappingRemovalComplete (p : PartNo) (va : Nat) (s : State) : Out :=
  match s.job? p va false, s.leaf p va with
  | some j, some l =>
    let s1 := s.drainPage p va l.size
    match j.leaf with
    | none => .next (((s1.copiesLose p (va, l.size)).applyJob p j (some l)).answer p j.src)
    | some _ =>
      .next (((s1.putLeaf p va j.big 0).getD s1).sched (nanos 1) (nanos 1000) 1003 (.mappingRemovalComplete p va))
  | some j, none => .next ((((s.applyJob p j none).restoreCtl p).tellFaulted p).answer p j.src)
  | none, _ => .next s

/-- A page's contents moved to its new frame. -/
def State.movePage (s : State) (old new : Leaf) (va : Nat) : State :=
  s.homeWrite (new.home va) (s.homeRead (old.home va) old.size)

/-- The host's writes that waited for a flip, performed under the new bias (R299). -/
def State.hostWaits (s : State) (p : PartNo) (ws : List (Nat × List Byte)) : State :=
  ws.foldl (fun s q => match s.leaf p q.1 with
    | some l => if l.writable then s.homeWrite (l.home q.1) q.2 else s
    | none => s) s

/-- FLIP_COMPLETE: the caches are drained, the contents stand in the new frame, and the page has its new bias. -/
def execFlipComplete (p : PartNo) (va : Nat) (s : State) : Out :=
  match s.job? p va true, s.leaf p va with
  | some j, some l =>
    let s1 := s.drainPage p va l.size
    let s2 := match j.leaf with
      | some w => s1.movePage l ⟨w, j.big⟩ va
      | none => s1
    .next (((((s2.applyJob p j (some l)).hostWaits p j.held).restoreCtl p).tellFaulted p).answer p j.src)
  | _, _ => .next s

end Sys2Proof.Machine
end

