-- ==== Sys2Proof/Machine/Mailbox.lean ====
section
/-! DEFINITION. The life-cycle verbs of the mailbox (R369, R375 to R377, R380, R381). -/

namespace Sys2Proof.Machine

/-! ### Keys (R375) -/

/-- A partition's key drawn anew: what its slices held under the old one is gone (log 2). -/
def State.drawKey (s : State) (p : PartNo) : State :=
  let s1 := (s.onPart p fun x => { x with key := some (s.free 512) }).drew
  (s1.tilesOf p).foldl (fun s t => s.onTile t fun x => { x with mram := [], mramPoison := [] }) s1

/-- The attested configuration of a partition (R376). -/
def Partition.attested (x : Partition) : BitVec 512 :=
  Config.shake256 (x.measured.flatMap fun ws => ws.flatMap fun w => bytesOfNat 8 w.toNat)

/-! ### PCREATE (R369) -/

/-- A Partition Configuration Record's partition, and whether no field is out of range. -/
def parsePcr (bs : List Byte) : Partition × Bool :=
  let v := leAt bs 5 1
  let x := { Partition.start with
    live := true, clu := BitVec.ofNat 40 (leAt bs 0 5), vf := Fin.ofNat 64 (v % 64), prot := 128 ≤ v,
    colours := BitVec.ofNat 64 (leAt bs 8 8), lquota := leAt bs 16 4, saven := leAt bs 20 4, saveb := leAt bs 24 8,
    frameb := leAt bs 32 8, ttab := leAt bs 40 8, wdog := leAt bs 48 4, quant := leAt bs 52 4, tframe := leAt bs 56 8,
    poollim := leAt bs 64 4 }
  let aligned := fun (a n : Nat) => a % n == 0 && decide (a < 2 ^ 52)
  (x, x.clu != 0 && v / 64 % 2 == 0 && zeroAt bs 6 2 && x.colours != 0 && aligned x.saveb 65536 && aligned x.frameb 65536
    && aligned x.ttab 4096 && decide (1000 ≤ x.wdog ∧ x.wdog ≤ 10000000)
    && decide (x.quant = 0 ∨ (10 ≤ x.quant ∧ x.quant ≤ 100000)) && x.tframe % 65536 == 0 && decide (x.tframe < dramSize)
    && zeroAt bs 68 188)

/-- The live partitions. -/
def State.liveParts (s : State) : List PartNo := (List.finRange 40).filter fun p => (s.part p).live

/-- The reasons for which PCREATE fails though every field is in range: a protected partition shares no colour with the
frames of another, those of tables among them (R368). -/
def State.clashes (s : State) (x : Partition) : Bool :=
  ((List.finRange 40).any fun k => x.clu.getLsbD k.val && (s.clusters[k]).part.isSome)
    || (s.func ⟨x.vf.val + 1, by omega⟩).part.isSome
    || decide (262144 < (s.liveParts.map fun p => (s.part p).lquota).sum + x.lquota)
    || (s.liveParts.any fun p => (x.prot || (s.part p).prot) && (x.colours &&& (s.part p).colours) != 0)
    || (x.prot && s.frames.any fun e => x.colours.getLsbD (s.colourOf (e.1 * 2 ^ 16)))
    || (s.frame? (x.tframe / 65536)).isSome || !s.suits x (x.tframe / 65536)
    || (!x.prot && s.sealedColour (x.tframe / 65536))

/-- A partition created. -/
def State.createPart (s : State) (p : PartNo) (x : Partition) (pcr : List Byte) : State :=
  let words := (List.range 32).map fun i => BitVec.ofNat 64 (leAt pcr (8 * i) 8)
  let f : FuncNo := ⟨x.vf.val + 1, by omega⟩
  let s1 := { s with
    parts := s.parts.set p { x with measured := [words] },
    clusters := Vector.ofFn fun k : ClusterNo =>
      if x.clu.getLsbD k.val then { s.clusters[k] with part := some p } else s.clusters[k] }
  let s2 := (s1.setFrame (x.tframe / 65536) .table p).onFunc f fun y =>
    { y with part := some p, tdisp := .unlocked, errc := Vector.replicate 6 0 }
  ((s2.drawKey p).ttWatch p).serve f

/-- PCREATE. The PCR is read in host memory; the number of the partition is its result. -/
def State.pcreate (f : FuncNo) (s : State) : State × Option Nat :=
  let bs := Mem.readBytes s.host (s.arg f 0) 256
  let q := parsePcr bs
  if f ≠ 0 ∨ s.pkg.dn.isNone then (s, some stDenied)
  else if !q.2 then (s, some stBadArg)
  else if s.clashes q.1 then (s, some stDenied)
  else match (List.finRange 40).find? fun p => !(s.part p).live with
  | none => (s, some stDenied)
  | some p =>
    ((s.createPart p q.1 bs).onFunc f fun x => { x with mbarg := x.mbarg.set 0 (BitVec.ofNat 64 p.val) }, some stOk)

def execPcreate (f : FuncNo) (s : State) : Out := s.mailVerb f 1 (State.pcreate f)

/-! ### PDESTROY -/

/-- A tile that belongs to no partition any more. -/
def Tile.disown (x : Tile) : Tile :=
  { x with
    sp := [], spPoison := [], bays := Vector.replicate 64 Bay.start, banks := Vector.replicate 2 Bank.start, l1 := [],
    mram := [], mramPoison := [], journal := none, resume := none, undo := [] }

/-- The trees of a partition's domain, freed with their nodes. -/
def Lantern.freeDomain (l : Lantern) (p : PartNo) : Lantern :=
  let gone := (l.trees.filter fun k => k.2.part == p).map (·.1)
  let ns := (l.nodes.filter fun n => gone.contains n.2.tree).map (·.1)
  let l1 := ns.foldl Lantern.freeNode l
  { l1 with trees := l1.trees.filter fun k => k.2.part != p }

/-- Steps that stand for a partition. -/
def namesPart (p : PartNo) : Instr → Bool
  | .tspawnCheck _ _ _ q _ _ => q == p
  | .taskTableStep _ _ _ q _ _ => q == p
  | .signalStep _ q _ _ => q == p
  | .waitRegistration _ _ q _ _ _ _ => q == p
  | .timerDeadline q _ => q == p
  | .launchComplete q _ => q == p
  | .ttRelease q _ => q == p
  | .partitionResume q => q == p
  | .collectiveMatch q _ _ _ => q == p
  | .collectivePublish q _ _ => q == p
  | .mappingRemovalComplete q _ => q == p
  | .flipComplete q _ => q == p
  | _ => false

/-- The mailbox verbs that wait for changes of a partition's pages end. -/
def State.endJobs (s : State) (p : PartNo) : State :=
  (s.part p).jobs.foldl (fun s j => match j.src with
    | some (.mailbox f) => if s.verbBusy f then s.verbDone f stDenied else s
    | _ => s) s

/-- A partition destroyed: reset, its key gone, its frames in SCRUB, its Lantern domain freed. -/
def State.destroyPart (s : State) (p : PartNo) : State :=
  let f := s.funcOf p
  let ts := s.tilesOf p
  let s1 := (s.endJobs p).resetPartition p 4
  let s2 := (s1.framesOf p).foldl (fun s n => s.scrub p false n) s1
  let s3 := (ts.foldl (fun s t => s.onTile t Tile.disown) s2).dropEvents (namesPart p)
  let clusters := Vector.ofFn fun k : ClusterNo =>
    if (s3.clusters[k]).part = some p then { s3.clusters[k] with part := none, cache := [] } else s3.clusters[k]
  { { s3 with
    clusters := clusters, parts := s3.parts.set p Partition.start, lantern := s3.lantern.freeDomain p,
    groups := s3.groups.filter fun g => g.part != p }.onFunc f fun x => { x with part := none } with
    cur := s.cur }

/-- PDESTROY. -/
def State.pdestroy (f : FuncNo) (s : State) : State × Option Nat :=
  if f ≠ 0 then (s, some stDenied)
  else match s.livePart (s.arg f 0) with
  | none => (s, some stBadArg)
  | some p => (s.destroyPart p, some stOk)

def execPdestroy (f : FuncNo) (s : State) : Out := s.mailVerb f 2 (State.pdestroy f)

/-! ### ASSIGN and RECLAIM (R372, R375) -/

/-- Do a verb's frame and count name frames of device memory? -/
def State.frameRange (s : State) (f : FuncNo) : Bool :=
  decide (s.arg f 1 ≠ 0 ∧ s.arg f 0 + s.arg f 1 ≤ frameCount)

/-- ASSIGN. -/
def State.assign (f : FuncNo) (s : State) : State × Option Nat :=
  if f ≠ 0 then (s, some stDenied)
  else match s.livePart (s.arg f 2) with
  | none => (s, some stBadArg)
  | some p =>
    let x := s.part p
    let ns := (List.range (s.arg f 1)).map (s.arg f 0 + ·)
    if x.prot ∧ (s.func (s.funcOf p)).tdisp ≠ .unlocked then (s, some stLocked)
    else if !s.frameRange f then (s, some stBadArg)
    else if ns.any fun n => (s.frame? n).isSome then (s, some stDenied)
    else
      let s1 := ns.foldl (fun s n => s.setFrame n .assigned p) s
      let s2 := if x.key.isNone then s1.drawKey p else s1
      (if x.prot then s2.measure f p else s2, some stOk)

def execAssign (f : FuncNo) (s : State) : Out := s.mailVerb f 3 (State.assign f)

/-- May a RECLAIM take a frame: it has an owner, and holds no tables? -/
def State.reclaimable (s : State) (n : Nat) : Bool :=
  match s.frame? n with
  | some (.assigned, _) => true
  | some (.mapped, _) => true
  | _ => false

/-- RECLAIM: the pages that name the frames are unmapped first. -/
def State.reclaim (f : FuncNo) (s : State) : State × Option Nat :=
  if f ≠ 0 then (s, some stDenied)
  else if !s.frameRange f then (s, some stBadArg)
  else
    if !s.reclaimed.all s.reclaimable then (s, some stDenied) else (s.pushReclaim, none)

def execReclaim (f : FuncNo) (s : State) : Out := s.mailVerb f 4 (State.reclaim f)

/-! ### PSET and PRESET -/

/-- PSET. -/
def State.pset (f : FuncNo) (s : State) : State × Option Nat :=
  if f ≠ 0 then (s, some stDenied)
  else match s.livePart (s.arg f 3) with
  | none => (s, some stBadArg)
  | some p =>
    let w := s.arg f 0
    let q := s.arg f 1
    if s.closed p then (s, some stLocked)
    else if 1000 ≤ w ∧ w ≤ 10000000 ∧ (q = 0 ∨ (10 ≤ q ∧ q ≤ 100000)) then
      (s.onPart p fun x => { x with wdog := w, quant := q }, some stOk)
    else (s, some stBadArg)

def execPset (f : FuncNo) (s : State) : Out := s.mailVerb f 8 (State.pset f)

/-- PRESET, of the PF or of the partition's own VF. -/
def State.preset (f : FuncNo) (s : State) : State × Option Nat :=
  match s.livePart (s.arg f 0) with
  | none => (s, some (if f = 0 then stBadArg else stDenied))
  | some p => if f = 0 ∨ f = s.funcOf p then (s.resetPartition p 4, some stOk) else (s, some stDenied)

def execPreset (f : FuncNo) (s : State) : Out := s.mailVerb f 9 (State.preset f)

/-! ### Migration (R380) -/

/-- QCFG as it reads. -/
def Queue.cfgWord (x : Queue) : Nat :=
  x.log2.toNat + 32 * x.prio.toNat + (if x.state = .disabled then 0 else 256) + 512 * x.host.toNat

def Queue.stateCode (x : Queue) : Nat :=
  match x.state with
  | .disabled => 0
  | .running => 1
  | .error => 2

/-- The Queue State Record of a queue. -/
def Queue.record (x : Queue) (q : QueueNo) : List Byte :=
  let body := [1, BitVec.ofNat 8 q.val] ++ bytesOfNat 2 (x.stateCode + 256 * x.ecode.toNat) ++ bytesOfNat 4 x.head.toNat
    ++ bytesOfNat 4 x.tail.toNat ++ bytesOfNat 4 x.fidx.toNat ++ bytesOfNat 8 x.base.toNat ++ bytesOfNat 8 x.cfgWord
    ++ List.replicate 220 0
  body ++ bytesOfNat 4 (crc32c body).toNat

/-- A queue as its record gives it, DISABLED. -/
def Queue.ofRecord (bs : List Byte) : Queue :=
  let cfg : Word := BitVec.ofNat 64 (leAt bs 24 8)
  let log := cfg.toNat % 32
  { Queue.start with
    ecode := BitVec.ofNat 8 (leAt bs 3 1), head := BitVec.ofNat 32 (leAt bs 4 4), tail := BitVec.ofNat 32 (leAt bs 8 4),
    fidx := BitVec.ofNat 32 (leAt bs 12 4), base := BitVec.ofNat 64 (leAt bs 16 8) &&& 0xFFFFFFFFFF000,
    prio := cfg.extractLsb' 5 3, host := cfg.getLsbD 9, log2 := if 4 ≤ log ∧ log ≤ 16 then BitVec.ofNat 5 log else 4 }

/-- Is a queue DISABLED, with every launch it accepted complete? -/
def Queue.quiet (x : Queue) : Bool := x.state == .disabled && x.open_.isEmpty

/-- The queue and the partition that a migration verb names; or its status. The queue passes a test of its own. -/
def State.migration (f : FuncNo) (fit : Queue → Bool) (s : State) : Except Nat (QueueNo × PartNo) :=
  if f ≠ 0 then .error stDenied
  else match s.livePart (s.arg f 1) with
  | none => .error stBadArg
  | some p =>
    if (s.part p).prot then .error stProtected
    else if 16 ≤ s.arg f 0 then .error stBadArg
    else if !fit (s.queue (s.funcOf p) (Fin.ofNat 16 (s.arg f 0))) then .error stBusy
    else .ok (Fin.ofNat 16 (s.arg f 0), p)

/-- QEXPORT. -/
def State.qexport (f : FuncNo) (s : State) : State × Option Nat :=
  match s.migration f Queue.quiet with
  | .error e => (s, some e)
  | .ok (q, p) =>
    if s.canWrite p (s.arg f 2) 256 then
      (s.hubWrite p (s.arg f 2) ((s.queue (s.funcOf p) q).record q), some stOk)
    else (s, some stBadArg)

def execQexport (f : FuncNo) (s : State) : Out := s.mailVerb f 10 (State.qexport f)

/-- QIMPORT, into a queue that is DISABLED; what it launched before goes on. -/
def State.qimport (f : FuncNo) (s : State) : State × Option Nat :=
  match s.migration f (fun x => x.state == .disabled) with
  | .error e => (s, some e)
  | .ok (q, p) => match s.hubRead p (s.arg f 2) 256 with
    | none => (s, some stBadArg)
    | some bs =>
      if leAt bs 252 4 ≠ (crc32c (bs.take 252)).toNat ∨ leAt bs 0 1 ≠ 1 then (s, some stBadArg)
      else (s.onQueue (s.funcOf p) q fun x => { Queue.ofRecord bs with open_ := x.open_ }, some stOk)

def execQimport (f : FuncNo) (s : State) : Out := s.mailVerb f 11 (State.qimport f)

/-! ### DIRTY (R381) -/

/-- The bytes of a bitmap. -/
def Window.bytes (w : Window) : List Byte := bytesOfNat 4096 w.bits.toNat

/-- DIRTY. -/
def State.dirty (f : FuncNo) (s : State) : State × Option Nat :=
  if f ≠ 0 then (s, some stDenied)
  else match s.livePart (s.arg f 0) with
  | none => (s, some stBadArg)
  | some p =>
    let a := s.arg f 2
    let b := s.arg f 3
    if s.closed p then (s, some stLocked)
    else if 2 ≤ s.arg f 1 ∨ a % 4096 ≠ 0 ∨ 2 ^ 52 ≤ a ∨ b % 2 ^ 23 ≠ 0 ∨ 2 ^ 52 ≤ b ∨ !s.canWrite p a 4096 then (s, some stBadArg)
    else
      let n : Fin 2 := Fin.ofNat 2 (s.arg f 1)
      let put := fun (w : Window) => ((s.hubWrite p a w.bytes).onPart p fun x =>
        { x with windows := x.windows.set n (some { w with bits := 0 }) }, some stOk)
      match (s.part p).windows[n] with
      | none => put ⟨b, 0⟩
      | some w => if b = w.base ∨ b = 0 then put w else (s, some stBadArg)

def execDirty (f : FuncNo) (s : State) : Out := s.mailVerb f 12 (State.dirty f)

/-! ### GBIND (R377) -/

/-- Is every queue DISABLED and every time-triggered entry disabled? -/
def State.allQuiet (s : State) : Bool :=
  (s.funcs.toList.all fun x => x.queues.toList.all fun q => q.state == .disabled)
    && s.liveParts.all fun p => (List.finRange 64).all fun e => match s.ttRead p e with
      | some bs => !(bs.getD 24 0).getLsbD 0
      | none => true

/-- GBIND: `valid` is how the check of the image's signature ends. -/
def State.gbind (f : FuncNo) (valid : Bool) (s : State) : State × Option Nat :=
  if f ≠ 0 then (s, some stDenied)
  else if !s.allQuiet then (s, some stBusy)
  else if !valid then (s, some stBadArg)
  else ({ s with pkg := { s.pkg with gondola := .valid, meas := Map.set s.pkg.meas 2 (s.free 512) } }.drew, some stOk)

def execGbind (f : FuncNo) (valid : Bool) (s : State) : Out := s.mailVerb f 13 (State.gbind f valid)

end Sys2Proof.Machine
end

