-- ==== Sys2Proof/Machine/HostLink.lean ====
section
/-! DEFINITION. What the host does over its link: the registers of a function (R370), locked interfaces (R378), resets
of a function (R379), host and peer accesses (R255, R298), failed write-backs (R210). -/

namespace Sys2Proof.Machine

/-! ### Locked interfaces (R378) -/

/-- A protected partition's memory and key as its interface goes back to CONFIG_UNLOCKED: every frame goes through SCRUB
back to ASSIGNED, the root table's to TABLE (log 33), under a new key; frames on their way to FREE stay so. -/
def State.scrubTenant (s : State) (p : PartNo) : State :=
  let s0 := s.flushPart p
  let s1 := (s0.tilesOf p).foldl (fun s t => s.onTile t fun x => { x with l1 := [] }) s0
  let s2 := { s1 with clusters := s1.clusters.map fun x : Cluster => if x.part = some p then { x with cache := [] } else x }
  let ns := (s2.framesOf p).filter fun n => s2.frame? n != some (.scrub false, p)
  let s3 := ns.foldl (fun s n => s.scrub p true n) s2
  let s4 := (s3.endJobs p).onPart p fun x => { x with pt := [], tableNext := 0, poolUsed := 0, jobs := [] }
  (s4.drawKey p).pushReclaim

/-- A function's interface goes to CONFIG_UNLOCKED. -/
def State.unlock (s : State) (f : FuncNo) : State :=
  match (s.func f).part with
  | some p =>
    let s1 := if (s.part p).prot ∧ (s.func f).tdisp ≠ .unlocked then s.scrubTenant p else s
    s1.onFunc f fun x => { x with tdisp := .unlocked }
  | none => s.onFunc f fun x => { x with tdisp := .unlocked }

/-- Is a function the VF of a protected partition that hears its messages? -/
def State.tenant (s : State) (f : FuncNo) : Bool :=
  s.hears f && match (s.func f).part with
    | some p => (s.part p).prot
    | none => false

/-- LOCK_INTERFACE. -/
def execLockInterface (f : FuncNo) (s : State) : Out :=
  if s.tenant f ∧ (s.func f).tdisp = .unlocked then .next (s.onFunc f fun x => { x with tdisp := .locked }) else .next s

/-- START_INTERFACE. -/
def execStartInterface (f : FuncNo) (s : State) : Out :=
  if s.tenant f ∧ (s.func f).tdisp = .locked then .next ((s.onFunc f fun x => { x with tdisp := .run }).serve f) else .next s

/-- STOP_INTERFACE. -/
def execStopInterface (f : FuncNo) (s : State) : Out := if s.tenant f then .next (s.unlock f) else .next s

/-- IDE_STREAM_FAILURE: an error of the host link, which the PF counts (R382), breaks the lock of the interface. -/
def execIdeStreamFailure (f : FuncNo) (s : State) : Out :=
  let s1 := s.onFunc 0 (·.count 1)
  if (s.func f).isLocked then .next (s1.lockBroken f) else .next s1

/-! ### Function-level reset (R379) -/

/-- The partitions a reset of a function resets: its own, or every one for the PF. -/
def State.resetBy (s : State) (f : FuncNo) : List PartNo := if f = 0 then s.liveParts else (s.func f).part.toList

/-- The proposals of a function under way answer to no one any more. -/
def State.forgetProposals (s : State) (f : FuncNo) : State :=
  let mine := fun (j : PageJob) => j.src == some (.ring f) || j.src == some (.mailbox f)
  let forget := fun (x : Partition) => ({ x with
    jobs := x.jobs.map fun j => if mine j then { j with src := none } else j } : Partition)
  { s with parts := s.parts.map forget }

/-- FLR: every queue DISABLED, the partition reset; what reaches the function is dropped until it completes. -/
def execFlr (f : FuncNo) (s : State) : Out :=
  if s.pkg.state ≠ .run ∨ (s.func f).resetting then .next s
  else
    let s1 := (s.forgetProposals f).onFunc f fun x => { x with resetting := true, queues := x.queues.map Queue.disable }
    let s2 := (s1.resetBy f).foldl (fun s p => s.resetPartition p 3) s1
    .next (s2.sched (nanos 1) (nanos 100000000) 1003 (.flrComplete f))

/-- FLR_COMPLETE: the registers hold their reset values. -/
def execFlrComplete (f : FuncNo) (s : State) : Out :=
  if (s.func f).resetting then .next ((s.unlock f).onFunc f Func.cleared) else .next s

/-! ### Register writes (R370, R376, R378) -/

/-- What a write to an offset means. -/
inductive Reg
  | qbase (q : QueueNo)
  | qcfg (q : QueueNo)
  | qtail (q : QueueNo)
  | evbase | evcfg | evhead | mpbase | mpcfg | mptail | mbcmd
  | mbarg (i : Fin 4)
  | msix (i : Fin 16)
  | none
  deriving DecidableEq, Repr

/-- The register at an offset of a function's space that a write reaches. -/
def regAt (off : Nat) : Reg :=
  if off % 8 ≠ 0 then .none
  else if off < 0x400 then
    let q := Fin.ofNat 16 (off / 64)
    if off % 64 = 0 then .qbase q else if off % 64 = 8 then .qcfg q else if off % 64 = 16 then .qtail q else .none
  else if 0x1000 ≤ off ∧ off < 0x1080 then .msix (Fin.ofNat 16 ((off - 0x1000) / 8))
  else if 0x808 ≤ off ∧ off ≤ 0x820 then .mbarg (Fin.ofNat 4 ((off - 0x808) / 8))
  else if off = 0x400 then .evbase else if off = 0x408 then .evcfg else if off = 0x418 then .evhead
  else if off = 0x500 then .mpbase else if off = 0x508 then .mpcfg else if off = 0x510 then .mptail
  else if off = 0x800 then .mbcmd else .none

/-- EVCFG as a write leaves it: LOG2 outside 6 to 16 stays. -/
def Func.newEvcfg (x : Func) (v : Word) : Word :=
  let log := v.toNat % 32
  if 6 ≤ log ∧ log ≤ 16 then v &&& 0x7F else (v &&& 0x60) ||| (x.evcfg &&& 0x1F)

/-- MPCFG as a write leaves it: LOG2 outside 4 to 12 stays. -/
def Func.newMpcfg (x : Func) (v : Word) : Word :=
  let log := v.toNat % 16
  if 4 ≤ log ∧ log ≤ 12 then v &&& 0x2F else (v &&& 0x20) ||| (x.mpcfg &&& 0xF)

/-- A ring address. -/
def ringBase (v : Word) : Word := v &&& 0xFFFFFFFFFF000

/-- Does a write reach a locked register (R378)? QBASE, EVBASE, MPBASE and the MSI-X table are locked whole, of
EVCFG and MPCFG the fields LOG2 and HOST (log 33). -/
def Func.locks (x : Func) (r : Reg) (v : Word) : Bool :=
  match r with
  | .qbase _ => true
  | .evbase => true
  | .mpbase => true
  | .msix _ => true
  | .evcfg => (x.newEvcfg v ^^^ x.evcfg) &&& 0x3F != 0
  | .mpcfg => (x.newMpcfg v ^^^ x.mpcfg) &&& 0xF != 0
  | _ => false

/-- Vectors that are pending and no longer masked go out (log 38). -/
def Func.unmask (x : Func) : Func :=
  (List.finRange 8).foldl (fun x v => if x.pba.getLsbD v.val ∧ !(x.msix[2 * v.val + 1]).getLsbD 32 then
    { x with pba := x.pba &&& ~~~(BitVec.twoPow 64 v.val), signals := x.signals + 1 } else x) x

/-- A register of a function written; QBASE only while its queue does not run. -/
def Func.write (x : Func) (r : Reg) (v : Word) : Func :=
  match r with
  | .qbase q =>
    if (x.queues[q]).state = .running then x
    else { x with queues := x.queues.set q { x.queues[q] with base := ringBase v } }
  | .evbase => { x with evbase := ringBase v }
  | .evcfg => { x with evcfg := x.newEvcfg v }
  | .evhead => { x with evhead := v.extractLsb' 0 32 }
  | .mpbase => { x with mpbase := ringBase v }
  | .mpcfg => { x with mpcfg := x.newMpcfg v }
  | .mbarg i => { x with mbarg := x.mbarg.set i v }
  | .msix i => ({ x with msix := x.msix.set i v }).unmask
  | _ => x

/-- A register of a function as a read gives it. -/
def Func.read (x : Func) (r : Reg) : Word :=
  match r with
  | .qbase q => (x.queues[q]).base
  | .qcfg q => BitVec.ofNat 64 (x.queues[q]).cfgWord
  | .qtail q => (x.queues[q]).tail.setWidth 64
  | .evbase => x.evbase
  | .evcfg => x.evcfg
  | .evhead => x.evhead.setWidth 64
  | .mpbase => x.mpbase
  | .mpcfg => x.mpcfg
  | .mptail => x.mptail.setWidth 64
  | .mbcmd => x.mbcmd
  | .mbarg i => x.mbarg[i]
  | .msix i => x.msix[i]
  | .none => 0

/-- QSTAT (R343). -/
def Queue.statWord (x : Queue) : Word :=
  BitVec.ofNat 64 (x.fidx.toNat * 2 ^ 32 + x.ecode.toNat * 2 ^ 8 + x.stateCode)

/-- The code of TDISPST. -/
def Tdisp.code : Tdisp → Nat
  | .unlocked => 0 | .locked => 1 | .run => 2 | .error => 3

/-- The register at an offset that is a multiple of 8, the read-only ones among them; any other offset reads 0. -/
def Func.readAt (x : Func) (off : Nat) : Word :=
  if off < 0x400 ∧ off % 64 = 0x18 then (x.queues[Fin.ofNat 16 (off / 64)]).head.setWidth 64
  else if off < 0x400 ∧ off % 64 = 0x20 then (x.queues[Fin.ofNat 16 (off / 64)]).statWord
  else if off = 0x410 then x.evtail.setWidth 64 else if off = 0x420 then x.evovf.setWidth 64
  else if off = 0x518 then x.mphead.setWidth 64
  else if 0x600 ≤ off ∧ off ≤ 0x628 then x.errc[Fin.ofNat 6 ((off - 0x600) / 8)]
  else if off = 0x700 then BitVec.ofNat 64 x.tdisp.code
  else if off = 0x1800 then x.pba
  else x.read (regAt off)

/-- Does the host link expose an offset of a function: all of it in package RUN while no FLR is under way, and in
RECOVERY the PF without its queues (R379, R398); nothing where BOOT found its PCIe link failed (R399)? -/
def State.exposes (s : State) (f : FuncNo) (off : Nat) : Bool :=
  s.hears f || (s.pkg.state == .recovery && f == 0 && decide (0x400 ≤ off) && !s.pkg.failed.contains .pcie)

/-- What a read of a function's register space returns (R370): an aligned 8-byte or 4-byte access the register or
the half of it that it names, any other, and one that the link does not expose, all ones; in RECOVERY the PF's queues are no
registers and read 0 (R398). A read changes nothing. -/
def State.registerRead (s : State) (f : FuncNo) (off : BitVec 16) (n : Nat) : Word :=
  let o := off.toNat
  if (n = 8 ∨ n = 4) ∧ o % n = 0 ∧ s.exposes f (max o 0x400) then
    let v := if s.exposes f o then (s.func f).readAt (o / 8 * 8) else 0
    if n = 8 then v else ((v >>> (o % 8 * 8)).extractLsb' 0 32).setWidth 64
  else BitVec.allOnes 64

/-! ### The management port's read-out (R397) -/

/-- A place that the management port reads out of a frozen chip: a register of a context, a byte of its frame area, of a
scratchpad, or of a line of a cache; a line of the system cache holds what its address does. -/
inductive DebugAt
  | x (t : TileNo) (c : CtxNo) (r : XReg)
  | a (t : TileNo) (c : CtxNo) (r : AReg)
  | v (t : TileNo) (c : CtxNo) (r : VReg)
  | csr (t : TileNo) (c : CtxNo) (n : Nat)
  | frame (t : TileNo) (c : CtxNo) (off : Nat)
  | scratch (t : TileNo) (off : Nat)
  | l1 (t : TileNo) (key : Nat)
  | cluster (k : ClusterNo) (key : Nat)
  | system (l : Nat)
  deriving DecidableEq, Repr

/-- The partition a place is tagged with. -/
def DebugAt.owner (s : State) : DebugAt → Option PartNo
  | .x t _ _ | .a t _ _ | .v t _ _ | .csr t _ _ | .frame t _ _ | .scratch t _ | .l1 t _ => s.partOf t
  | .cluster k _ => (s.clusters[k]).part
  | .system l => s.frameOwner (l * 256)

/-- What stands at a place, as a number of its bytes; none where a cache does not hold the line. -/
def DebugAt.value (s : State) : DebugAt → Option Nat
  | .x t c r => some ((s.ctxAt t c).regs.x r).toNat
  | .a t c r => some ((s.ctxAt t c).regs.as[r]).toNat
  | .v t c r => some ((s.tile t).vreg c r).toNat
  | .csr t c n => ({ s with cur := .hw t c }.csrRead n).map fun (w : Word) => w.toNat
  | .frame t c off => ((s.partOf t).bind fun p => s.hubRead p (s.frameAt t c + off) 1).map natOfBytes
  | .scratch t off => some (natOfBytes ((s.tile t).readSp off 1))
  | .l1 t key => (s.line? t key).map fun (l : Line) => l.data.toNat
  | .cluster k key => (s.cline? k key).map fun (l : CLine) => l.data.toNat
  | .system l => (Map.get? s.sysCache l).map fun _ => natOfBytes (Mem.readBytes s.dram (l * 256) 256)

/-- What the management port reads out while the chip is frozen, where the debug-enable fuse is blown, its check has not
failed and the PF has authorised the session: the state, and zeros for what a protected partition is tagged with. It
changes nothing (R397, log 102). -/
def State.debugRead (s : State) (authorised : Bool) (d : DebugAt) : Option Nat :=
  if !s.pkg.frozen || !Config.debugFuse || s.pkg.failed.contains .fuses || !authorised then none
  else if (d.owner s).any fun p => (s.part p).prot then some 0
  else d.value s

/-- The value an access writes: all of it, or the half that an aligned 4-byte access names (R370). -/
def Func.merged (x : Func) (r : Reg) (off : Nat) (wide : Bool) (v : Word) : Word :=
  if wide then v
  else if off % 8 = 4 then (v.extractLsb' 0 32) ++ ((x.read r).extractLsb' 0 32)
  else ((x.read r).extractLsb' 32 32) ++ (v.extractLsb' 0 32)

/-- The verb that MBCMD with GO = 1 starts; a code that is no verb returns BAD_ARG. How the check of a GBIND's image
ends, the word does not say. -/
def startVerb (f : FuncNo) (code : Nat) (s : State) : Out :=
  match code with
  | 1 => execPcreate f s
  | 2 => execPdestroy f s
  | 3 => execAssign f s
  | 4 => execReclaim f s
  | 5 => execMap (.mailbox f) s
  | 6 => execUnmap (.mailbox f) s
  | 7 => execBias (.mailbox f) s
  | 8 => execPset f s
  | 9 => execPreset f s
  | 10 => execQexport f s
  | 11 => execQimport f s
  | 12 => execDirty f s
  | 13 => execGbind f ((s.free 1).getLsbD 0) s.drew
  | n => s.mailVerb f n fun s => (s, some stBadArg)

/-- Event 0x003 goes out once an event register lets it (R447). -/
def State.retell (s : State) (f : FuncNo) : State :=
  match (s.func f).part with
  | some p => s.tellFaulted p
  | none => s

/-- REGISTER_WRITE: an aligned 8-byte or 4-byte write; any other is dropped. A write to a locked register of a locked
interface is not performed. -/
def execRegisterWrite (f : FuncNo) (off : BitVec 16) (wide : Bool) (val : Word) (s : State) : Out :=
  let r := if off.toNat % (if wide then 8 else 4) = 0 then regAt (off.toNat / 8 * 8) else .none
  let x := s.func f
  let v := x.merged r off.toNat wide val
  match r with
  | .qcfg q => execQcfg f q v s
  | .qtail q => execQtail f q v s
  | .mptail => execMptail f v s
  | .mbcmd =>
    if !s.hears f ∨ s.verbBusy f then .next s
    else if v.getLsbD 31 then startVerb f (v.toNat % 256) s
    else .next (s.onFunc f fun x => { x with mbcmd := (x.mbcmd &&& 0xFF00) ||| (v &&& 0xFF) })
  | _ =>
    if !s.exposes f off.toNat then .next s
    else if x.isLocked ∧ x.locks r v then .next (s.lockBroken f)
    else match r with
    | .mbarg _ => if s.verbBusy f then .next s else .next (s.onFunc f fun x => x.write r v)
    | .mpcfg => .next ((s.onFunc f fun x => x.write r v).serveRing f)
    | _ => .next ((s.onFunc f fun x => x.write r v).retell f)

/-! ### Accesses from outside (R255, R298) -/

/-- Is a host access to a page of a function's partition admitted: the page is device-bias, the interface not in
ERROR (R378)? -/
def State.hostHome (s : State) (f : FuncNo) (va n : Nat) (store : Bool) : Option Home :=
  match (s.func f).part with
  | none => none
  | some p => match s.leaf p va with
    | some l =>
      if s.hears f ∧ l.isLocal ∧ va % l.size + n ≤ l.size ∧ (!store ∨ l.writable) ∧ (s.func f).tdisp ≠ .error then
        some (l.home va)
      else none
    | none => none

/-- Does a host access to a page meet a flip (R299)? -/
def State.hostFlip (s : State) (f : FuncNo) (va n : Nat) : Bool := (s.func f).part.any fun p => s.flipping p (va, n)

/-- A host write that waits for the flip of its page. -/
def State.holdWrite (s : State) (f : FuncNo) (va : Nat) (bytes : List Byte) : State :=
  let wait := fun (j : PageJob) =>
    if j.flip && meets (j.va, if j.big then 2 ^ 21 else 2 ^ 16) (va, bytes.length) then { j with held := j.held ++ [(va, bytes)] } else j
  match (s.func f).part with
  | some p => if s.hears f then s.onPart p fun x => { x with jobs := x.jobs.map wait } else s
  | none => s

/-- HOST_MEMORY_ACCESS: a write at the system cache, or in host memory; a read changes nothing. A write to a page under a
flip waits for its end (R299). A write of a function's BAR or SR-IOV configuration, which a locked interface holds locked, is
not performed there and breaks the lock (R378). -/
def execHostMemoryAccess (acc : HostAcc) (s : State) : Out :=
  match acc with
  | .read _ _ _ => .next s
  | .write f va bytes =>
    if s.hostFlip f va bytes.length then .next (s.holdWrite f va bytes)
    else match s.hostHome f va bytes.length true with
    | some h => .next (s.homeWrite h bytes)
    | none => .next s
  | .writeHost a bytes => .next (s.homeWrite (.host a) bytes)
  | .config f i v =>
    if !s.exposes f 0x400 then .next s
    else if (s.func f).isLocked then .next (s.lockBroken f)
    else .next (s.onFunc f fun x => { x with config := Map.set x.config i v })

/-- Every cached copy of a line of device memory written back and dropped. -/
def State.dropHome (s : State) (h : Home) : State :=
  let s1 := allTiles.foldl (fun s t =>
    (((s.tile t).l1.filter fun e => e.2.home == h.line).map (·.1)).foldl (fun s k => s.evictLine t k) s) s
  (List.finRange 40).foldl (fun s k =>
    (((s.clusters[k]).cache.filter fun e => e.2.home == h.line).map (·.1)).foldl (fun s key => s.dropCline k key) s) s1

/-- PEER_ACCESS_REQUEST: a peer's access to this device's memory, at its home; no port is up but in package RUN (R398). -/
def execPeerAccessRequest (acc : PeerAcc) (s : State) : Out :=
  if s.pkg.state ≠ .run then .next s
  else match acc with
  | .read pa n => if dramSize < pa + n then .fault (.noMemory pa) else .next s
  | .write pa bytes => if dramSize < pa + bytes.length then .fault (.noMemory pa) else .next (s.homeWrite (.dram pa) bytes)
  | .atom op pa x =>
    if dramSize < pa + 8 then .fault (.noMemory pa)
    else
      let h := Home.dram pa
      let s1 := if s.isSync h then s else
        let s0 := s.dropHome h
        { s0 with syncLines := s0.syncLines ++ [⟨h.line, none⟩] }
      .next (s1.writeQ h (GatomOp.apply op (s1.readQ h) x))

/-- WRITE_BACK_FAILURE: the release of an object is marked incomplete (R210). -/
def execWriteBackFailure (p : PartNo) (obj : Nat) (s : State) : Out :=
  match s.leaf p obj with
  | some l =>
    let h := l.home obj
    if s.incomplete.contains h then .next s else .next { s with incomplete := s.incomplete ++ [h] }
  | none => .next s

end Sys2Proof.Machine
end

