-- ==== Sys2Proof/Machine/Link.lean ====
section
/-! DEFINITION. Tetherlink ports (R254, R257 to R260), the discipline of TIME (R362) and the patrol scrubber (R394). -/

namespace Sys2Proof.Machine

/-! ### Ports (R257 to R260) -/

def State.onPort (s : State) (q : PortNo) (f : Port → Port) : State := { s with ports := s.ports.set q (f s.ports[q]) }

/-- The lanes of a port that are not retired. -/
def Port.good (x : Port) : List (Fin 9) := (List.finRange 9).filter fun l => !x.retired.getLsbD l.val

/-- The lanes that carry traffic: at full width all but the unused spare, which is lane 8 (log 16); else the four
lowest-numbered good lanes. -/
def Port.active (x : Port) : List (Fin 9) :=
  match x.st with
  | .up8 => if x.spareUsed then x.good else x.good.take 8
  | .retrain true => if x.spareUsed then x.good else x.good.take 8
  | .down => []
  | _ => x.good.take 4

/-- The collectives whose roster holds a peer that no path reaches fail with PEER_LOST (R260, R275). -/
def State.failLost (s : State) : State :=
  let hit := s.colls.filter fun c => match (s.group? c.part c.group).bind fun g => g.rosterAt c.seq with
    | some r => s.memberLost r
    | none => false
  hit.foldl (fun s c => s.failColl c 8) s

/-- The peer a page of a partition names. -/
def State.peerAt (s : State) (p : PartNo) (a : Nat) : Option Nat := (s.leaf p a).bind fun l => if l.isPeer then some l.dn else none

/-- Was an access sent on a port: a data access whose line its L1 does not hold, or one carried out at its home?  -/
def State.sentOut (s : State) (t : TileNo) (p : PartNo) (g : GAcc) : Bool :=
  match g.ins.ins with
  | .gprobe .. => false
  | .ginv .. => false
  | .gld .. => (s.line? t (lineKey p g.ea.toNat)).isNone
  | .gldc .. => (s.line? t (lineKey p g.ea.toNat)).isNone
  | .gldv .. => (piecesOf g.ea.toNat (g.range).2).any fun q => (s.line? t (lineKey p q.1)).isNone
  | _ => true

/-- An outstanding access that was sent on a dead port fails; which port carried it, the manual leaves open (R260, log 4). -/
def State.dropSent (s : State) (t : TileNo) (c : CtxNo) (gone : Nat → Bool) : State :=
  match s.partOf t with
  | none => s
  | some p => (((s.ctxAt t c).pend ++ (s.ctxAt t c).gaccs).filter fun g => g.stat == .outstanding
      && s.sentOut t p g && ((piecesOf g.ea.toNat g.range.2).any fun q => ((s.peerAt p q.1).map gone).getD false)).foldl (fun s g =>
    if (s.free 1).getLsbD 0 then (execGAccessFault t c g.id 0x24 s.drew).state s.drew else s.drew) s

/-- A copy under way from or to a peer whose data was on a dead port, or that no path reaches, raises Remote Access Error and
publishes nothing; whether its data still was on the way is free where a path is left (R260, log 4). -/
def State.dropCopy (s : State) (t : TileNo) (gone : Nat → Bool) (k : Cmd) : State :=
  match s.partOf t with
  | none => s
  | some p =>
    let outs := match k.dest with
      | some (.global, _) => k.buf.map fun q => (q.1, q.2.length)
      | _ => []
    let dns := ((if k.stat = .started then s.srcRanges k else []) ++ outs).flatMap fun r => (piecesOf r.1 r.2).map fun q => s.peerAt p q.1
    let hit := fun (d : Option Nat) => (d.map gone).getD false
    if k.moving ∧ dns.any hit then
      (if dns.any (fun d => (d.map fun n => s.unreachable.getLsbD n).getD false) || (s.free 1).getLsbD 0 then
        s.drew.faultCmd t k.id 19 k.ops[1] else s.drew)
    else s

/-- What was sent on a port that is DOWN fails (R260). -/
def State.failSent (s : State) (peers : List (BitVec 6)) : State :=
  let gone := fun (n : Nat) => peers.any fun d => d.toNat == n
  allTiles.foldl (fun s t =>
    (s.tile t).cmds.foldl (fun s k => s.dropCopy t gone k) (allCtxs.foldl (fun s c => s.dropSent t c gone) s)) s

/-- A port goes DOWN: every path through it is dropped, what was sent on it fails, and the PF has its event. -/
def State.portDown (s : State) (q : PortNo) : State :=
  let peers := (s.ports[q]).peers
  let s1 := s.onPort q fun x => { x with st := .down, replays := none }
  (({ s1 with unreachable := s1.offRoutes }.post 0 0x005 (BitVec.ofNat 64 (q.val + Config.downCode.toNat * 256)) true 0 0).failSent
    peers).failLost

/-- LINK_DOWN: the partner stops answering. -/
def execLinkDown (port : PortNo) (s : State) : Out :=
  if s.pkg.state ≠ .run ∨ (s.ports[port]).st = .down then .next s else .next (s.portDown port)

/-- A port passes through RETRAIN, within 12 µs, to a width. -/
def State.retrain (s : State) (q : PortNo) (wide : Bool) : State :=
  let s1 := s.onPort q fun x => { x with st := .retrain wide, replays := none }
  if s1.agenda.any fun d => d.ev == .retrainComplete q then s1 else s1.sched 0 (nanos 12000) 1002 (.retrainComplete q)

/-- A lane retired: its traffic moves to the spare, or the port narrows, or goes DOWN. The PF counts the error that no replay
corrected (R382, R394; log 95). -/
def State.retireLane (s : State) (q : PortNo) (lane : Fin 9) : State :=
  let x := s.ports[q]
  if x.st = .down ∨ x.retired.getLsbD lane.val then s
  else
    let carried := x.active.contains lane
    let s1 := (s.countAt none false).onPort q fun x => { x with retired := x.retired ||| BitVec.twoPow 9 lane.val, replays := none }
    if !x.spareUsed then
      let s2 := s1.onPort q fun x => { x with spareUsed := true }
      if carried then s2.retrain q true else s2
    else if (s1.ports[q]).good.length < 4 then s1.portDown q
    else if carried then s1.retrain q false
    else s1

/-- LANE_RETIRE: a lane has lost lock or passed its threshold. -/
def execLaneRetire (port : PortNo) (lane : Fin 9) (s : State) : Out :=
  if s.pkg.state = .run then .next (s.retireLane port lane) else .next s

/-- RETRAIN_COMPLETE: the port is at its width, and what was not acknowledged has been replayed. -/
def execRetrainComplete (port : PortNo) (s : State) : Out :=
  match (s.ports[port]).st with
  | .retrain wide => .next (s.onPort port fun x => { x with st := if wide then .up8 else .up4 })
  | _ => .next s

/-- LINK_CRC_FAIL: a flit that fails is replayed, and one whose replay fails 8 times in a row retires the lane that its
failures fall on (R259). A failure while a flit is replayed falls on it, or on another whose own replays are counted
anew, which is free; the lane is that of the latest failure. The replay corrects it, and the PF counts it (R382; DESIGN
CHOICE, log 95). -/
def execLinkCrcFail (port : PortNo) (lane : Fin 9) (s : State) : Out :=
  let x := s.ports[port]
  if s.pkg.state ≠ .run ∨ x.st = .down then .next s
  else
    let n := match x.replays with
      | some r => if (s.free 1).getLsbD 0 then r.2 + 1 else 0
      | none => 0
    let s1 := s.drew.onPort port fun x => { x with replays := some (lane, n) }
    .next ((if 8 ≤ n then s1.retireLane port lane else s1).countAt none true)

/-- PORT_RESET: every lane is good again, and the port trains at full width. -/
def execPortReset (port : PortNo) (s : State) : Out :=
  if s.pkg.state ≠ .run then .next s
  else
    let s1 := (s.onPort port fun x => { x with retired := 0, spareUsed := false }).retrain port true
    .next { s1 with unreachable := s1.offRoutes }

/-- ERROR_THRESHOLD_SET. -/
def execErrorThresholdSet (port : PortNo) (n : Nat) (s : State) : Out :=
  .next (s.onPort port fun x => { x with threshold := n })

/-- DN_ASSIGNMENT: DN stays fixed until the package powers off. -/
def execDnAssignment (dn : BitVec 6) (s : State) : Out :=
  if s.pkg.state = .run ∧ s.pkg.dn.isNone then .next { s with pkg := { s.pkg with dn := some dn } } else .next s

/-! ### TIME (R362) -/

/-- PTP_SOURCE_ASSIGNMENT: a Tetherlink port, or 12 for the management port. -/
def execPtpSourceAssignment (port : Nat) (s : State) : Out :=
  if port ≤ 12 ∧ s.pkg.state = .run then .next { s with pkg := { s.pkg with ptpSource := some port } } else .next s

/-- The slew that a difference calls for: towards it, at most 200 ppm; how fast, the manual leaves open. -/
def State.slewTo (s : State) (time : Nat) : Int :=
  let r := s.delay 0 200
  if s.time < time then r else if time < s.time then -(r : Int) else 0

/-- PTP_MESSAGE: TIME steps forward while no partition runs or as the source first locks; else it slews. -/
def execPtpMessage (port : Nat) (time : Word) (s : State) : Out :=
  let t := time.toNat
  if s.pkg.state ≠ .run ∨ s.pkg.ptpSource ≠ some port then .next s
  else
    let locked := { s with pkg := { s.pkg with ptpLocked := true } }
    if s.time < t ∧ (!s.pkg.ptpLocked ∨ s.liveParts.isEmpty) then .next ({ locked.setTime t with slew := 0 }.rearm)
    else .next ({ locked.setTime s.time with slew := s.slewTo t }.drew.rearm)

/-! ### The patrol scrubber (R394) -/

/-- PATROL_SCRUB: errors whose time has come are found; all of LPDDR-6 and MRAM
program space has been read and corrected once more in 24 hours. -/
def execPatrolScrub (s : State) : Out :=
  if s.pkg.state ≠ .run then .next s
  else
    let s1 := s.meetErrs
    if s1.agenda.any fun d => d.ev == .patrolScrub then .next s1
    else .next (s1.schedAt (s1.now + nanos 86400000000000) 1000 .patrolScrub)

end Sys2Proof.Machine
end

