-- ==== Sys2Proof/Machine/Dispatch.lean ====
section
/-! DEFINITION. The meaning of every instruction and of every step: one arm for each constructor. -/

namespace Sys2Proof.Machine

def exec (i : Instr) (s : State) : Host.Outcome State Fault Refusal :=
  match i with
  | .nop => Sys2Proof.Machine.execNop s
  | .br cond a b off => Sys2Proof.Machine.execBr cond a b off s
  | .bri a => Sys2Proof.Machine.execBri a s
  | .call d off => Sys2Proof.Machine.execCall d off s
  | .calli d a => Sys2Proof.Machine.execCalli d a s
  | .ret a => Sys2Proof.Machine.execRet a s
  | .brmz off => Sys2Proof.Machine.execBrmz off s
  | .brmf off => Sys2Proof.Machine.execBrmf off s
  | .lset l a count => Sys2Proof.Machine.execLset l a count s
  | .lstr l ix stride => Sys2Proof.Machine.execLstr l ix stride s
  | .lrun lo hi n => Sys2Proof.Machine.execLrun lo hi n s
  | .lbrk l a => Sys2Proof.Machine.execLbrk l a s
  | .waitc b => Sys2Proof.Machine.execWaitc b s
  | .waitb s1 a g live => Sys2Proof.Machine.execWaitb s1 a g live s
  | .yield => Sys2Proof.Machine.execYield s
  | .texit => Sys2Proof.Machine.execTexit s
  | .tspawn d a b count => Sys2Proof.Machine.execTspawn d a b count s
  | .tcont s1 a b live => Sys2Proof.Machine.execTcont s1 a b live s
  | .tsig a b addend => Sys2Proof.Machine.execTsig a b addend s
  | .tdep a amount => Sys2Proof.Machine.execTdep a amount s
  | .ifence => Sys2Proof.Machine.execIfence s
  | .banksw a => Sys2Proof.Machine.execBanksw a s
  | .halt => Sys2Proof.Machine.execHalt s
  | .tarm d t a b relt => Sys2Proof.Machine.execTarm d t a b relt s
  | .add d a b => Sys2Proof.Machine.execAdd d a b s
  | .sub d a b => Sys2Proof.Machine.execSub d a b s
  | .addi d a imm => Sys2Proof.Machine.execAddi d a imm s
  | .mul d a b => Sys2Proof.Machine.execMul d a b s
  | .mulh d a b => Sys2Proof.Machine.execMulh d a b s
  | .fcmp p d a b => Sys2Proof.Machine.execFcmp p d a b s
  | .div d a b => Sys2Proof.Machine.execDiv d a b s
  | .divu d a b => Sys2Proof.Machine.execDivu d a b s
  | .rem d a b => Sys2Proof.Machine.execRem d a b s
  | .fcvt op d a => Sys2Proof.Machine.execFcvt op d a s
  | .and d a b => Sys2Proof.Machine.execAnd d a b s
  | .or d a b => Sys2Proof.Machine.execOr d a b s
  | .xor d a b => Sys2Proof.Machine.execXor d a b s
  | .shl d a b => Sys2Proof.Machine.execShl d a b s
  | .shr d a b => Sys2Proof.Machine.execShr d a b s
  | .sar d a b => Sys2Proof.Machine.execSar d a b s
  | .min d a b => Sys2Proof.Machine.execMin d a b s
  | .max d a b => Sys2Proof.Machine.execMax d a b s
  | .slt d a b => Sys2Proof.Machine.execSlt d a b s
  | .sltu d a b => Sys2Proof.Machine.execSltu d a b s
  | .sel d a b c => Sys2Proof.Machine.execSel d a b c s
  | .bfx d a b c => Sys2Proof.Machine.execBfx d a b c s
  | .bfi d a b c => Sys2Proof.Machine.execBfi d a b c s
  | .clz d a => Sys2Proof.Machine.execClz d a s
  | .popc d a => Sys2Proof.Machine.execPopc d a s
  | .li d imm => Sys2Proof.Machine.execLi d imm s
  | .amov op => Sys2Proof.Machine.execAmov op s
  | .fadd d a b => Sys2Proof.Machine.execFadd d a b s
  | .fmul d a b => Sys2Proof.Machine.execFmul d a b s
  | .ffma d a b c => Sys2Proof.Machine.execFfma d a b c s
  | .vaddF d a b => Sys2Proof.Machine.execVaddF d a b s
  | .vaddI d a b => Sys2Proof.Machine.execVaddI d a b s
  | .vsubF d a b => Sys2Proof.Machine.execVsubF d a b s
  | .vsubI d a b => Sys2Proof.Machine.execVsubI d a b s
  | .vmulF d a b => Sys2Proof.Machine.execVmulF d a b s
  | .vmulI d a b => Sys2Proof.Machine.execVmulI d a b s
  | .vfmaF d a b => Sys2Proof.Machine.execVfmaF d a b s
  | .vminF d a b => Sys2Proof.Machine.execVminF d a b s
  | .vmaxF d a b => Sys2Proof.Machine.execVmaxF d a b s
  | .vminI d a b => Sys2Proof.Machine.execVminI d a b s
  | .vmaxI d a b => Sys2Proof.Machine.execVmaxI d a b s
  | .vabsF d a => Sys2Proof.Machine.execVabsF d a s
  | .vnegF d a => Sys2Proof.Machine.execVnegF d a s
  | .vand d a b => Sys2Proof.Machine.execVand d a b s
  | .vor d a b => Sys2Proof.Machine.execVor d a b s
  | .vxor d a b => Sys2Proof.Machine.execVxor d a b s
  | .vshl d a b => Sys2Proof.Machine.execVshl d a b s
  | .vshr d a b => Sys2Proof.Machine.execVshr d a b s
  | .vsar d a b => Sys2Proof.Machine.execVsar d a b s
  | .vcmpF p a b => Sys2Proof.Machine.execVcmpF p a b s
  | .vcmpI p a b => Sys2Proof.Machine.execVcmpI p a b s
  | .vsel d a b => Sys2Proof.Machine.execVsel d a b s
  | .vmov d a => Sys2Proof.Machine.execVmov d a s
  | .vacc d r => Sys2Proof.Machine.execVacc d r s
  | .vrdt d r => Sys2Proof.Machine.execVrdt d r s
  | .vrotr d a n => Sys2Proof.Machine.execVrotr d a n s
  | .vrotc d a n => Sys2Proof.Machine.execVrotc d a n s
  | .vbcr d a n => Sys2Proof.Machine.execVbcr d a n s
  | .vbcc d a n => Sys2Proof.Machine.execVbcc d a n s
  | .vredr op d a => Sys2Proof.Machine.execVredr op d a s
  | .vredc op d a => Sys2Proof.Machine.execVredc op d a s
  | .vtrn d a => Sys2Proof.Machine.execVtrn d a s
  | .vexp2 d a => Sys2Proof.Machine.execVexp2 d a s
  | .vlog2 d a => Sys2Proof.Machine.execVlog2 d a s
  | .vexp d a => Sys2Proof.Machine.execVexp d a s
  | .vlog d a => Sys2Proof.Machine.execVlog d a s
  | .vrcp d a => Sys2Proof.Machine.execVrcp d a s
  | .vrsq d a => Sys2Proof.Machine.execVrsq d a s
  | .vtanh d a => Sys2Proof.Machine.execVtanh d a s
  | .vsigm d a => Sys2Proof.Machine.execVsigm d a s
  | .vcvt op d a => Sys2Proof.Machine.execVcvt op d a s
  | .vnarw w d a => Sys2Proof.Machine.execVnarw w d a s
  | .vwidn w d a => Sys2Proof.Machine.execVwidn w d a s
  | .mpush => Sys2Proof.Machine.execMpush s
  | .minv => Sys2Proof.Machine.execMinv s
  | .mpop => Sys2Proof.Machine.execMpop s
  | .mma r n fa fb acc => Sys2Proof.Machine.execMma r n fa fb acc s
  | .mmaf r n fa fb acc => Sys2Proof.Machine.execMmaf r n fa fb acc s
  | .mmas r n fa fb acc => Sys2Proof.Machine.execMmas r n fa fb acc s
  | .mzero r te => Sys2Proof.Machine.execMzero r te s
  | .mput r a => Sys2Proof.Machine.execMput r a s
  | .mskip n sa sb sq => Sys2Proof.Machine.execMskip n sa sb sq s
  | .mdrain sa sb sq => Sys2Proof.Machine.execMdrain sa sb sq s
  | .mstat d r => Sys2Proof.Machine.execMstat d r s
  | .pld d l => Sys2Proof.Machine.execPld d l s
  | .pst v l => Sys2Proof.Machine.execPst v l s
  | .pldb d l row nr => Sys2Proof.Machine.execPldb d l row nr s
  | .pstb v l row nr => Sys2Proof.Machine.execPstb v l row nr s
  | .plds d l str => Sys2Proof.Machine.execPlds d l str s
  | .psts v l str => Sys2Proof.Machine.execPsts v l str s
  | .pldx d l ix => Sys2Proof.Machine.execPldx d l ix s
  | .pstx v l ix => Sys2Proof.Machine.execPstx v l ix s
  | .pstm v l => Sys2Proof.Machine.execPstm v l s
  | .patom op d l x => Sys2Proof.Machine.execPatom op d l x s
  | .patomR op d r x => Sys2Proof.Machine.execPatomR op d r x s
  | .binit x force l => Sys2Proof.Machine.execBinit x force l s
  | .barv g l => Sys2Proof.Machine.execBarv g l s
  | .barvR g r => Sys2Proof.Machine.execBarvR g r s
  | .bwait d l => Sys2Proof.Machine.execBwait d l s
  | .bwaitR d r => Sys2Proof.Machine.execBwaitR d r s
  | .pstsc sz x l => Sys2Proof.Machine.execPstsc sz x l s
  | .pldsc sx sz d l => Sys2Proof.Machine.execPldsc sx sz d l s
  | .baycfg d bay e => Sys2Proof.Machine.execBaycfg d bay e s
  | .bayst d bay => Sys2Proof.Machine.execBayst d bay s
  | .bayrel bay => Sys2Proof.Machine.execBayrel bay s
  | .gld sx sz d g => Sys2Proof.Machine.execGld sx sz d g s
  | .gst sz x g => Sys2Proof.Machine.execGst sz x g s
  | .gldv d g => Sys2Proof.Machine.execGldv d g s
  | .gstv v g => Sys2Proof.Machine.execGstv v g s
  | .gatom op sc d x e => Sys2Proof.Machine.execGatom op sc d x e s
  | .gcas sc d n e => Sys2Proof.Machine.execGcas sc d n e s
  | .acq sc d e => Sys2Proof.Machine.execAcq sc d e s
  | .rel op sc b e => Sys2Proof.Machine.execRel op sc b e s
  | .acqs sc d b e => Sys2Proof.Machine.execAcqs sc d b e s
  | .bind d b c e => Sys2Proof.Machine.execBind d b c e s
  | .unbind d e => Sys2Proof.Machine.execUnbind d e s
  | .gfence sc => Sys2Proof.Machine.execGfence sc s
  | .gpref lvl g => Sys2Proof.Machine.execGpref lvl g s
  | .ginv n g => Sys2Proof.Machine.execGinv n g s
  | .gwb n g => Sys2Proof.Machine.execGwb n g s
  | .gldc sx sz d g => Sys2Proof.Machine.execGldc sx sz d g s
  | .gstc sz x g => Sys2Proof.Machine.execGstc sz x g s
  | .gprobe d g => Sys2Proof.Machine.execGprobe d g s
  | .cpy b s1 d r ctl => Sys2Proof.Machine.execCpy b s1 d r ctl s
  | .cpyi b s1 d ctl bytes => Sys2Proof.Machine.execCpyi b s1 d ctl bytes s
  | .cfeed n s1 p f ssp => Sys2Proof.Machine.execCfeed n s1 p f ssp s
  | .pub mask => Sys2Proof.Machine.execPub mask s
  | .cstat d n => Sys2Proof.Machine.execCstat d n s
  | .cabrt sel => Sys2Proof.Machine.execCabrt sel s
  | .snfind d h r n peek => Sys2Proof.Machine.execSnfind d h r n peek s
  | .snput d h a n cost => Sys2Proof.Machine.execSnput d h a n cost s
  | .snget p h d s1 slot defer dbay => Sys2Proof.Machine.execSnget p h d s1 slot defer dbay s
  | .snrel h => Sys2Proof.Machine.execSnrel h s
  | .snstat d h sel => Sys2Proof.Machine.execSnstat d h sel s
  | .snhold h => Sys2Proof.Machine.execSnhold h s
  | .collAllreduce b s1 d ctl n => Sys2Proof.Machine.execCollAllreduce b s1 d ctl n s
  | .collRedscat b s1 d ctl n => Sys2Proof.Machine.execCollRedscat b s1 d ctl n s
  | .collAllgath b s1 d ctl n => Sys2Proof.Machine.execCollAllgath b s1 d ctl n s
  | .collBcast b s1 d r ctl n => Sys2Proof.Machine.execCollBcast b s1 d r ctl n s
  | .cgrpJoin d h gslot => Sys2Proof.Machine.execCgrpJoin d h gslot s
  | .cgrpLeave d gslot => Sys2Proof.Machine.execCgrpLeave d gslot s
  | .mwr s1 m n slot sbay => Sys2Proof.Machine.execMwr s1 m n slot sbay s
  | .mcmt n => Sys2Proof.Machine.execMcmt n s
  | .mabt n => Sys2Proof.Machine.execMabt n s
  | .mwear d m kind => Sys2Proof.Machine.execMwear d m kind s
  | .tilewk a hold => Sys2Proof.Machine.execTilewk a hold s
  | .tileoff a => Sys2Proof.Machine.execTileoff a s
  | .evpost a event => Sys2Proof.Machine.execEvpost a event s
  | .cpys e s1 d r ctl => Sys2Proof.Machine.execCpys e s1 d r ctl s
  | .sncfgCreate d r gl expl limit => Sys2Proof.Machine.execSncfgCreate d r gl expl limit s
  | .sncfgDestroy d h => Sys2Proof.Machine.execSncfgDestroy d h s
  | .sncfgFlush d h => Sys2Proof.Machine.execSncfgFlush d h s
  | .cpyb m s1 d r ctl => Sys2Proof.Machine.execCpyb m s1 d r ctl s
  | .csrr d csr => Sys2Proof.Machine.execCsrr d csr s
  | .csrw d a csr => Sys2Proof.Machine.execCsrw d a csr s
  | .csrs d a csr => Sys2Proof.Machine.execCsrs d a csr s
  | .csrc d a csr => Sys2Proof.Machine.execCsrc d a csr s
  | .trap code => Sys2Proof.Machine.execTrap code s
  | .eret => Sys2Proof.Machine.execEret s
  | .sysc code => Sys2Proof.Machine.execSysc code s
  | .pwrq d a => Sys2Proof.Machine.execPwrq d a s
  | .emit => Sys2Proof.Machine.execEmit s
  | .done => Sys2Proof.Machine.execDone s
  | .cancel => Sys2Proof.Machine.execCancel s
  | .matrixResult t c => Sys2Proof.Machine.execMatrixResult t c s
  | .gAccessCompletion t c id => Sys2Proof.Machine.execGAccessCompletion t c id s
  | .deferredFaultArrival t c tid r => Sys2Proof.Machine.execDeferredFaultArrival t c tid r s
  | .copyStart t id => Sys2Proof.Machine.execCopyStart t id s
  | .copyPublish t id => Sys2Proof.Machine.execCopyPublish t id s
  | .lastSourceRead t id => Sys2Proof.Machine.execLastSourceRead t id s
  | .cfeedPanelAvailable t id => Sys2Proof.Machine.execCfeedPanelAvailable t id s
  | .tspawnCheck t c tid p slot gen => Sys2Proof.Machine.execTspawnCheck t c tid p slot gen s
  | .taskTableStep t c tid p handle amount => Sys2Proof.Machine.execTaskTableStep t c tid p handle amount s
  | .signalStep src p addr addend => Sys2Proof.Machine.execSignalStep src p addr addend s
  | .waitRegistration t c p idx bar obj arg => Sys2Proof.Machine.execWaitRegistration t c p idx bar obj arg s
  | .barrierReferenceStep t c tid op r => Sys2Proof.Machine.execBarrierReferenceStep t c tid op r s
  | .lanternStep t c tid op => Sys2Proof.Machine.execLanternStep t c tid op s
  | .journalApplyComplete t id => Sys2Proof.Machine.execJournalApplyComplete t id s
  | .windDownComplete t c => Sys2Proof.Machine.execWindDownComplete t c s
  | .timerDeadline p idx => Sys2Proof.Machine.execTimerDeadline p idx s
  | .preemption t c => Sys2Proof.Machine.execPreemption t c s
  | .selection t c => Sys2Proof.Machine.execSelection t c s
  | .binding t c => Sys2Proof.Machine.execBinding t c s
  | .bankLoadComplete t bank => Sys2Proof.Machine.execBankLoadComplete t bank s
  | .restore t c => Sys2Proof.Machine.execRestore t c s
  | .launchComplete p slot => Sys2Proof.Machine.execLaunchComplete p slot s
  | .queueNop f q => Sys2Proof.Machine.execQueueNop f q s
  | .launch f q => Sys2Proof.Machine.execLaunch f q s
  | .fence f q => Sys2Proof.Machine.execFence f q s
  | .waits f q => Sys2Proof.Machine.execWaits f q s
  | .waitsReread f q => Sys2Proof.Machine.execWaitsReread f q s
  | .signal f q => Sys2Proof.Machine.execSignal f q s
  | .prologue f => Sys2Proof.Machine.execPrologue f s
  | .ttRelease p e => Sys2Proof.Machine.execTtRelease p e s
  | .tileIdle t => Sys2Proof.Machine.execTileIdle t s
  | .offDelay t => Sys2Proof.Machine.execOffDelay t s
  | .tileWake t => Sys2Proof.Machine.execTileWake t s
  | .levelChangeComplete k => Sys2Proof.Machine.execLevelChangeComplete k s
  | .levelRecoveryStep => Sys2Proof.Machine.execLevelRecoveryStep s
  | .clusterCounterSample => Sys2Proof.Machine.execClusterCounterSample s
  | .forcedLatchSave t c => Sys2Proof.Machine.execForcedLatchSave t c s
  | .partitionResume p => Sys2Proof.Machine.execPartitionResume p s
  | .retrainComplete port => Sys2Proof.Machine.execRetrainComplete port s
  | .collectiveMatch p group seq offers => Sys2Proof.Machine.execCollectiveMatch p group seq offers s
  | .collectivePublish p group seq => Sys2Proof.Machine.execCollectivePublish p group seq s
  | .mappingRemovalComplete p va => Sys2Proof.Machine.execMappingRemovalComplete p va s
  | .flipComplete p va => Sys2Proof.Machine.execFlipComplete p va s
  | .scrubComplete frame => Sys2Proof.Machine.execScrubComplete frame s
  | .patrolScrub => Sys2Proof.Machine.execPatrolScrub s
  | .tilewkHoldExpiry t => Sys2Proof.Machine.execTilewkHoldExpiry t s
  | .flrComplete f => Sys2Proof.Machine.execFlrComplete f s
  | .journalWriteComplete t id => Sys2Proof.Machine.execJournalWriteComplete t id s
  | .powerFail => Sys2Proof.Machine.execPowerFail s
  | .powerGood v => Sys2Proof.Machine.execPowerGood v s
  | .safeTierCheckpoint parts stay => Sys2Proof.Machine.execSafeTierCheckpoint parts stay s
  | .gAccessFault t c id code => Sys2Proof.Machine.execGAccessFault t c id code s
  | .interruptPost t c n => Sys2Proof.Machine.execInterruptPost t c n s
  | .strikeReport t => Sys2Proof.Machine.execStrikeReport t s
  | .knownAnswerMismatch t => Sys2Proof.Machine.execKnownAnswerMismatch t s
  | .qtail f q v => Sys2Proof.Machine.execQtail f q v s
  | .qcfg f q v => Sys2Proof.Machine.execQcfg f q v s
  | .ptpMessage port time => Sys2Proof.Machine.execPtpMessage port time s
  | .throttleStep hot => Sys2Proof.Machine.execThrottleStep hot s
  | .recoveryImageWrite valid => Sys2Proof.Machine.execRecoveryImageWrite valid s
  | .freeze => Sys2Proof.Machine.execFreeze s
  | .freezeRelease => Sys2Proof.Machine.execFreezeRelease s
  | .flr f => Sys2Proof.Machine.execFlr f s
  | .linkDown port => Sys2Proof.Machine.execLinkDown port s
  | .laneRetire port lane => Sys2Proof.Machine.execLaneRetire port lane s
  | .linkCrcFail port lane => Sys2Proof.Machine.execLinkCrcFail port lane s
  | .rosterInstall p group r => Sys2Proof.Machine.execRosterInstall p group r s
  | .pcreate f => Sys2Proof.Machine.execPcreate f s
  | .pdestroy f => Sys2Proof.Machine.execPdestroy f s
  | .assign f => Sys2Proof.Machine.execAssign f s
  | .reclaim f => Sys2Proof.Machine.execReclaim f s
  | .map src => Sys2Proof.Machine.execMap src s
  | .unmap src => Sys2Proof.Machine.execUnmap src s
  | .bias src => Sys2Proof.Machine.execBias src s
  | .protect f => Sys2Proof.Machine.execProtect f s
  | .mptail f v => Sys2Proof.Machine.execMptail f v s
  | .pset f => Sys2Proof.Machine.execPset f s
  | .preset f => Sys2Proof.Machine.execPreset f s
  | .qexport f => Sys2Proof.Machine.execQexport f s
  | .qimport f => Sys2Proof.Machine.execQimport f s
  | .dirty f => Sys2Proof.Machine.execDirty f s
  | .gbind f valid => Sys2Proof.Machine.execGbind f valid s
  | .lockInterface f => Sys2Proof.Machine.execLockInterface f s
  | .startInterface f => Sys2Proof.Machine.execStartInterface f s
  | .stopInterface f => Sys2Proof.Machine.execStopInterface f s
  | .registerWrite f off wide v => Sys2Proof.Machine.execRegisterWrite f off wide v s
  | .dnAssignment dn => Sys2Proof.Machine.execDnAssignment dn s
  | .portReset port => Sys2Proof.Machine.execPortReset port s
  | .tileReinstate t => Sys2Proof.Machine.execTileReinstate t s
  | .defaultLevelSet k l => Sys2Proof.Machine.execDefaultLevelSet k l s
  | .budgetLevelSet k l => Sys2Proof.Machine.execBudgetLevelSet k l s
  | .offDelaySet p ns => Sys2Proof.Machine.execOffDelaySet p ns s
  | .securedSessionEnd p group r => Sys2Proof.Machine.execSecuredSessionEnd p group r s
  | .sessionKeyDelivery p handle rank key => Sys2Proof.Machine.execSessionKeyDelivery p handle rank key s
  | .ideStreamFailure f => Sys2Proof.Machine.execIdeStreamFailure f s
  | .hostMemoryAccess acc => Sys2Proof.Machine.execHostMemoryAccess acc s
  | .peerAccessRequest acc => Sys2Proof.Machine.execPeerAccessRequest acc s
  | .collectiveMessageArrival p group seq rank msg => Sys2Proof.Machine.execCollectiveMessageArrival p group seq rank msg s
  | .writeBackFailure p obj => Sys2Proof.Machine.execWriteBackFailure p obj s
  | .ptpSourceAssignment port => Sys2Proof.Machine.execPtpSourceAssignment port s
  | .errorThresholdSet port n => Sys2Proof.Machine.execErrorThresholdSet port n s
  | .resultClock t c => Sys2Proof.Machine.execResultClock t c s
  | .renameSpill t => Sys2Proof.Machine.execRenameSpill t s
  | .trapEntry t c => Sys2Proof.Machine.execTrapEntry t c s
  | .segmentCommit t c => Sys2Proof.Machine.execSegmentCommit t c s
  | .watchdogExpiry t c => Sys2Proof.Machine.execWatchdogExpiry t c s
  | .quantumExpiry t c => Sys2Proof.Machine.execQuantumExpiry t c s

end Sys2Proof.Machine
end

