-- ==== Sys2Proof/Machine/Step.lean ====
section
/-! DEFINITION. One step of the machine (R5, R127, R397; log 1, 6, 35): an input that is due, a clock of a tile, an
event of the agenda, or the wait for the next of them; and how a single instruction comes to be fetched (log 7). -/

namespace Sys2Proof.Machine

/-! ### Inputs -/

/-- The inputs that a frozen package takes: those of power, the management port and the security core (R397). -/
def actsFrozen : Instr → Bool
  | .powerFail | .powerGood _ | .freeze | .freezeRelease | .recoveryImageWrite _ | .rosterInstall _ _ _
  | .securedSessionEnd _ _ _ | .sessionKeyDelivery _ _ _ _ | .lockInterface _ | .startInterface _ | .stopInterface _
  | .dnAssignment _ | .portReset _ | .tileReinstate _ | .defaultLevelSet _ _ | .budgetLevelSet _ _ | .offDelaySet _ _
  | .ptpMessage _ _ | .ptpSourceAssignment _ | .errorThresholdSet _ _ | .safeTierCheckpoint _ _ => true
  | _ => false

/-- Is an input due? -/
def State.inputDue (s : State) (e : Nat × Instr) : Bool := decide (e.1 ≤ s.now) && (!s.pkg.frozen || actsFrozen e.2)

/-- The first input of a list that a test admits, with the others. -/
def takeFirst (p : Nat × Instr → Bool) : List (Nat × Instr) → Option (Instr × List (Nat × Instr))
  | [] => none
  | e :: es => if p e then some (e.2, es) else (takeFirst p es).map fun r => (r.1, e :: r.2)

/-! ### Clocks -/

/-- The tile of the lowest index whose clock is due. -/
def State.dueTile (s : State) : Option TileNo :=
  if s.clocked then allTiles.find? fun t => (s.tile t).power == .run && decide ((s.tile t).nextAt ≤ s.now) else none

/-! ### The wait -/

/-- The times at which something is due next. -/
def State.dueTimes (s : State) : List Nat :=
  (if s.pkg.frozen then [] else s.agenda.map (·.at_))
    ++ (if s.clocked then allTiles.filterMap fun t => if (s.tile t).power = .run then some (s.tile t).nextAt else none else [])
    ++ ((s.inputs.filter fun e => !s.pkg.frozen || actsFrozen e.2).map (·.1))

/-- Nothing is due: time moves on to what is due next; where nothing ever is, the machine stands still. -/
def State.wait (s : State) : State :=
  match s.dueTimes with
  | [] => s
  | d :: ds =>
    let at_ := ds.foldl min d
    if s.pkg.frozen then s.frozenFor (at_ - s.now) else { s with now := max s.now at_ }

/-! ### The step -/

/-- One step. -/
def step (s : State) : Host.Outcome State Fault Refusal :=
  match takeFirst s.inputDue s.inputs with
  | some (ev, rest) => exec ev { s with inputs := rest }
  | none => match s.dueTile with
    | some t => .next (s.tileClock t)
    | none => match s.pkg.frozen, s.agenda with
      | false, d :: ds => if d.at_ ≤ s.now then exec d.ev { s with agenda := ds } else .next s.wait
      | _, _ => .next s.wait

/-! ### A single instruction placed (log 7) -/

/-- The task of a placed instruction: none of the table's. -/
def placedTask : Task :=
  { tid := 0, slot := 16384, owner := 0, launch := false, spawned := false, descAddr := 0, index := 0, prio := 0,
    resumable := false, feeds := false, code := 0, codesz := 0x8000, mramoff := 0, boundAt := 0 }

/-- A bundle of its own for an instruction: its header, in whose first legal slot it stands, then its words. -/
def placedBytes (nbits w : Nat) : List Byte :=
  let ws := tableWords (w % 2 ^ nbits)
  let slot := (Slot.all.filter (opcSlot (opcOf (ws.headD 0).toNat))).headD .K
  (encodeHeader 7 false 0 [slot] :: ws).flatMap bytesOfWord

/-- T0 in RUN with its context 0 bound at the start of bank 0, which holds the bytes. -/
def Tile.placed (x : Tile) (now : Nat) (sup : Bool) (bs : List Byte) : Tile :=
  let g := { Regs.start 0 with priv := if sup then .S else .U }
  { x with
    power := .run, nextAt := now, turn := 0,
    banks := x.banks.set 0 { Bank.start with mem := Mem.writeBytes [] 0 bs, image := some (0, 0) },
    ctxs := x.ctxs.set 0 { Ctx.start with run := .bound, task := some placedTask, regs := g } }

/-- The package in RUN with a partition on cluster 0, whose tile 0 issues the instruction in its next clock, at the
privilege that it needs. -/
def State.withFetchWord (s : State) (nbits w : Nat) : State :=
  let sup := match decodeTableWord nbits w with
    | some i => i.needsS
    | none => false
  { s with
    pkg := { s.pkg with state := .run, frozen := false },
    inputs := [],
    clusters := s.clusters.set 0 { s.clusters[0] with part := some 0 },
    parts := s.parts.set 0 { Partition.start with live := true },
    tiles := s.tiles.set 0 ((s.tiles[0]).placed s.now sup (placedBytes nbits w)) }

end Sys2Proof.Machine
end

