-- ==== Sys2Proof/Safety.lean ====
section
/-! DEFINITION. What the claims speak of: memories read byte by byte, what a state keeps of another, legal states, and
the clock in which a bundle is tried. -/

namespace Sys2Proof.Machine

/-! ### Memory, read byte by byte -/

/-- Every byte of device, host and peer memory reads as before. -/
def SameHomes (s t : State) : Prop :=
  (∀ a, Mem.read t.dram a = Mem.read s.dram a) ∧ (∀ a, Mem.read t.host a = Mem.read s.host a)
    ∧ ∀ a, Mem.read t.peer a = Mem.read s.peer a

/-- Every byte of every scratchpad reads as before. -/
def SameSp (s t : State) : Prop := ∀ (u : TileNo) (a : Nat), Mem.read (t.tile u).sp a = Mem.read (s.tile u).sp a

/-- Every byte of every scratchpad reads as before, but for `n` bytes from `o` on in tile `u`. -/
def SameSpBut (u : TileNo) (o n : Nat) (s t : State) : Prop :=
  ∀ (v : TileNo) (a : Nat), (v = u → a < o ∨ o + n ≤ a) → Mem.read (t.tile v).sp a = Mem.read (s.tile v).sp a

/-- Every byte of every slice's MRAM and every word of every instruction bank reads as before. -/
def SameStores (s t : State) : Prop :=
  (∀ (u : TileNo) (a : Nat), Mem.read (t.tile u).mram a = Mem.read (s.tile u).mram a)
    ∧ ∀ (u : TileNo) (b : Fin 2) (a : Nat), Mem.read ((t.tile u).banks[b]).mem a = Mem.read ((s.tile u).banks[b]).mem a

/-- Nothing that a byte can be read from has changed: homes, scratchpads, MRAM, banks, and the lines of the caches. -/
def SameMemory (s t : State) : Prop :=
  SameHomes s t ∧ SameSp s t ∧ SameStores s t ∧ (∀ u : TileNo, (t.tile u).l1 = (s.tile u).l1)
    ∧ ∀ k : ClusterNo, (t.clusters[k]).cache = (s.clusters[k]).cache

/-- The byte that pieces written in order leave at an address, none where no piece covers it. -/
def lastByte (ps : List (Nat × List Byte)) (a : Nat) : Option Byte :=
  ps.foldl (fun acc q => if q.1 ≤ a ∧ a < q.1 + q.2.length then q.2[a - q.1]? else acc) none

/-- The `n` bytes at `a` are those of a number, little-endian. -/
def holdsNat (m : Mem) (a n v : Nat) : Prop := ∀ k < n, Mem.read m (a + k) = BitVec.ofNat 8 (v / 256 ^ k)

/-! ### What an instruction leaves alone -/

/-- Every X and A register, every mask, loop level and stride, every CSR, every class counter and status slot of the
acting context stands as before. -/
def SameRegs (s t : State) : Prop := t.cx.regs = s.cx.regs

/-- As `SameRegs`, but for the map states of the vector names. -/
def SameRegsButNames (s t : State) : Prop := { t.cx.regs with vmap := s.cx.regs.vmap } = s.cx.regs

/-- Every context of every tile but the acting one stands as before. -/
def SameOthers (s t : State) : Prop :=
  ∀ (u : TileNo) (c : CtxNo), s.cur ≠ .hw u c → t.ctxAt u c = s.ctxAt u c

/-- Result tiles, streams and queued records of the acting context stand as before. -/
def SameUnits (s t : State) : Prop :=
  t.cx.rts = s.cx.rts ∧ t.cx.af = s.cx.af ∧ t.cx.bf = s.cx.bf ∧ t.cx.mq = s.cx.mq ∧ t.cx.dq = s.cx.dq

/-- Does a check of an instruction fail at this clock? -/
def Issue.isTrap : Issue → Bool
  | .trap _ => true
  | _ => false

/-- A vector result under way: the register claimed for `d`, the vector slot, the result with its landing clock, the last
uses of the operands. -/
def State.vecDone (s r : State) (pv : Fin 56) (reads : List VUse) (d : VReg) (lat : Nat) (m : Mask) (v : VRes) : State :=
  reads.foldl (fun r u => r.used u (some d) lat) ((r.occupy s 2).fly lat (.v d pv) 0 v.vec m v.fl v.mnar)

/-- May a vector instruction that writes `d` go: its registers are ready, its slot is free, and `d` has the physical
register `pv` in the state `r`. -/
def State.vecGo (s : State) (i : Instr) (d : VReg) (r : State) (pv : Fin 56) : Prop :=
  s.ready i = true ∧ s.vecFree = true ∧ s.claimV s d = some (r, pv)

/-- The answer of a vector instruction that writes `d`: whenever it may go, its result is under way. -/
def State.vecAnswers (s : State) (i : Instr) (d : VReg) (reads : List VUse) (lat : Nat) (m : Mask) (v : VRes) : Prop :=
  ∀ r pv, s.vecGo i d r pv → exec i s = .next (s.vecDone r pv reads d lat m v)

/-- As `vecAnswers`, for an instruction that computes `f` at every lane of the top mask. -/
def State.laneAnswers (s : State) (i : Instr) (d : VReg) (reads : List VUse) (lat : Nat) (f : Nat → FRes) : Prop :=
  s.vecAnswers i d reads lat s.top (lanes s.top fun e => (f e, false))

/-- What an access writes of its context is held back by nothing: the segment is exposed, or nothing is held. -/
def State.lets (s : State) : Prop := s.cx.exposed = true ∨ s.cx.hold = []

/-- The node `i` of level `n` of the pairwise tree over the values `xs` (R58). -/
def treeAt (op : RedOp) (c : FpCtl) (xs : Nat → HWord) : Nat → Nat → HWord
  | 0, i => xs i
  | n + 1, i => (RedOp.node op c (treeAt op c xs n (2 * i)) (treeAt op c xs n (2 * i + 1))).1

/-! ### Floating-point values (R37 to R40) -/

/-- What a magnitude code of a format stands for, in units of its least subnormal; the code of ∞ for the next power of
two. -/
def Fmt.mag (f : Fmt) (k : Nat) : Nat :=
  if k < 2 ^ f.fb then k else (2 ^ f.fb + k % 2 ^ f.fb) * 2 ^ (k / 2 ^ f.fb - 1)

/-- The sign of an FP32 code, its magnitude code, and whether it is finite, ∞, a NaN, or a signalling NaN. -/
def f32Neg (w : HWord) : Bool := w.getLsbD 31
def f32Code (w : HWord) : Nat := w.toNat % 2 ^ 31
def f32Fin (w : HWord) : Bool := decide (f32Code w < f32.inf)
def f32Inf (w : HWord) : Bool := f32Code w == f32.inf
def f32Nan (w : HWord) : Bool := decide (f32.inf < f32Code w)
def f32Snan (w : HWord) : Bool := f32Nan w && !w.getLsbD 22

/-- The value of a code that is no NaN, in units of 2^−149; ±∞ as ±2^128. -/
def f32Int (w : HWord) : Int := if f32Neg w then -(f32.mag (f32Code w) : Int) else f32.mag (f32Code w)

/-- The code `w` with the flags `fl` is the magnitude `a` with its sign rounded once to a format, where `g` units of `a` make
the least subnormal: the neighbour below or above by the mode, the overflow result from the next power of two on. Whether
a result that rounds up to the least normal number was tiny is left open (R39, R40). -/
def Rounds (f : Fmt) (rm : Rm) (g : Nat) (neg : Bool) (a w : Nat) (fl : Fl) : Prop :=
  if f.mag f.inf * g ≤ a then
    fl = flOF ||| flNX ∧ w = f.signed neg (match rm with
      | .rne => f.inf
      | .rz => f.inf - 1
      | .rup => if neg then f.inf - 1 else f.inf
      | .rdn => if neg then f.inf else f.inf - 1)
  else ∃ k < f.inf, ∃ tiny : Bool,
    let lo := f.mag k * g
    let hi := f.mag (k + 1) * g
    let up := match rm with
      | .rne => decide (lo + hi < 2 * a) || (decide (2 * a = lo + hi) && k % 2 == 1)
      | .rz => false
      | .rup => !neg && a != lo
      | .rdn => neg && a != lo
    lo ≤ a ∧ a < hi ∧ w = f.signed neg (if up then k + 1 else k)
      ∧ (tiny = true → k < 2 ^ f.fb) ∧ (k + 1 < 2 ^ f.fb → tiny = true)
      ∧ fl = flagIf (a != lo) flNX ||| flagIf (up && k + 1 == f.inf) flOF ||| flagIf (a != lo && tiny) flUF

/-- The integer `r` is the value `v` rounded to a multiple of `u` in a mode (R39). -/
def RoundsInt (rm : Rm) (u : Nat) (v r : Int) : Prop :=
  match rm with
  | .rne => 2 * (v - r * u).natAbs ≤ u ∧ (2 * (v - r * u).natAbs = u → r % 2 = 0)
  | .rz => r = v.tdiv u
  | .rup => (r - 1) * u < v ∧ v ≤ r * u
  | .rdn => r * u ≤ v ∧ v < (r + 1) * u

/-- The sign of an exact sum of two numbers with signs: that of the sum, and at 0 the common one, else − toward −∞ alone. -/
def sumNeg (rm : Rm) (m n : Bool) (z : Int) : Bool :=
  if z = 0 then (if m = n then m else rm == .rdn) else decide (z < 0)

/-- A subnormal input under FTZ, and what FTZ makes of a result (R39). -/
def ftzIn (w : HWord) : HWord := if f32.isSub w.toNat then w &&& 0x80000000 else w
def ftzOut (r : FRes) : FRes := if f32.isSub r.1.toNat then (r.1 &&& 0x80000000, flUF ||| flNX) else r

/-- The result of an operation one of whose operands is a NaN (R38). -/
def nanRes (ws : List HWord) : FRes := (canonNan, if ws.any f32Snan then flNV else 0)

/-! ### Array operations (R49 to R51, R169, R170) -/

/-- The code of element m of a block record, and whether it is NaR, as under a NaR scale every element is. -/
def elemQ (w : RecWidth) (r m : Nat) : Int := (BitVec.ofNat (recBits w) (r / 2 ^ (8 + recBits w * m))).toInt
def elemNar (w : RecWidth) (r m : Nat) : Prop := r % 256 = 255 ∨ elemQ w r m = -2 ^ (recBits w - 1)

/-- Record `r` of a panel whose records have `n` bytes, with what follows it. -/
def Panel.recAt (p : Panel) (n r : Nat) : Nat := p.data.toNat / 2 ^ (8 * n * r)

/-- The pairs of A and B positions that half-step `h` of a sparse step multiplies under the metadata word `w`. -/
def keptPairs (w h : Nat) : List (Nat × Nat) :=
  (List.range 16).map fun m => (4 * (m / 2) + 2 * (m % 2) + (w.testBit (16 * h + m)).toNat, 16 * h + m)

/-- The element `c` is added the integer `v` in units of 2^(e − 254) and rounded once, to nearest (R49). -/
def RunAdded (c : HWord) (e : Nat) (v : Int) (w : HWord) : Prop :=
  if f32Nan c = true then w = canonNan
  else if f32Inf c = true then w = c
  else
    let z := f32Int c * 2 ^ 105 + v * 2 ^ e
    ∃ fl, Rounds f32 .rne (2 ^ 105) (sumNeg .rne (f32Neg c) (decide (v < 0)) z) z.natAbs w.toNat fl

/-- The 16-bit float at position m of a record: its sign, its magnitude code. -/
def floatNeg (r m : Nat) : Bool := r.testBit (16 * m + 15)
def floatCode (r m : Nat) : Nat := r / 2 ^ (16 * m) % 2 ^ 15

/-- The word `w` is the exact sum of the 32 products of two float records, `g` of whose units make the unit of FP32 over
`u`, rounded once to nearest (R50). -/
def ProductsRounded (f : Fmt) (u g ra rb : Nat) (w : HWord) : Prop :=
  let neg := fun m => floatNeg ra m != floatNeg rb m
  let nan := fun m => f.inf < floatCode ra m ∨ f.inf < floatCode rb m
    ∨ (floatCode ra m = f.inf ∧ floatCode rb m = 0) ∨ (floatCode ra m = 0 ∧ floatCode rb m = f.inf)
  let inf := fun m => floatCode ra m = f.inf ∨ floatCode rb m = f.inf
  let term := fun m => (if neg m then -1 else 1) * ((f.mag (floatCode ra m) * f.mag (floatCode rb m) * u : Nat) : Int)
  let z := ((List.range 32).map term).sum
  let bad := (∃ m < 32, nan m) ∨ ∃ m < 32, ∃ n < 32, inf m ∧ inf n ∧ neg m ≠ neg n
  (bad → w = canonNan)
    ∧ (¬ bad → ∀ m < 32, inf m → w.toNat = f32.signed (neg m) f32.inf)
    ∧ (¬ bad → (∀ m < 32, ¬ inf m) → ∃ fl, Rounds f32 .rne g
      (if z = 0 then (List.range 32).all neg else decide (z < 0)) z.natAbs w.toNat fl)

/-! ### Legal states -/

/-- Every byte memory is in canonical form: device, host and peer memory, each tile's scratchpad, MRAM and banks. -/
def MemsWf (s : State) : Prop :=
  Mem.wf s.dram = true ∧ Mem.wf s.host = true ∧ Mem.wf s.peer = true
    ∧ ∀ t : TileNo, Mem.wf (s.tile t).sp = true ∧ Mem.wf (s.tile t).mram = true
      ∧ ∀ b : Fin 2, Mem.wf ((s.tile t).banks[b]).mem = true

/-! ### Reads and write-backs of device memory (R285, R286, R334) -/

/-- Byte i of a line. -/
def byteOf (d : BitVec 2048) (i : Nat) : Byte := d.extractLsb' (8 * i) 8

/-- The byte at a home. -/
def State.byteAt (s : State) : Home → Byte
  | .dram a => Mem.read s.dram a
  | .host a => Mem.read s.host a
  | .peer d a => Mem.read s.peer (peerAddr d a)

/-- In L1 of tile `t` and in the cluster's cache there is room for the line at `a`. -/
def State.hasRoom (s : State) (t : TileNo) (p : PartNo) (a : Nat) : Prop :=
  let key := lineKey p a
  Map.sorted none (s.tile t).l1 = true ∧ Map.sorted none (s.clusters[clusterOf t]).cache = true
    ∧ ((setKeys (s.tile t).l1 256 key).filter (· != key)).length < 8
    ∧ ((setKeys (s.clusters[clusterOf t]).cache 2048 key).filter (· != key)).length < 16

/-- An access to `n` bytes at `a` goes to the home `h` on, which is in reach, and nothing in its lines is poisoned. -/
def State.serves (s : State) (t : TileNo) (p : PartNo) (a n : Nat) (h : Home) (store : Bool) : Prop :=
  ∀ q ∈ piecesOf a n, let k := h.add (q.1 - a)
    s.translate p q.1 store = .ok k ∧ s.lost k = false ∧ s.homePoison k.line 256 = false ∧ s.hasRoom t p q.1
    ∧ (∀ l, s.line? t (lineKey p q.1) = some l → l.bad = 0 ∧ l.home = k.line)
    ∧ ∀ l, s.cline? (clusterOf t) (lineKey p q.1) = some l → l.bad = 0

/-- A load of tile `t` of the byte at `a`, whose home is `h`, may return `b`: at the home where accesses are made there, from
the line in L1, or, as the line may have left L1, the byte behind it where L1's is not dirty (log 9). -/
def State.mayRead (s : State) (t : TileNo) (p : PartNo) (a : Nat) (h : Home) (b : Byte) : Prop :=
  let behind := match h, s.cline? (clusterOf t) (lineKey p a) with
    | .dram _, some l => byteOf l.data (a % 256)
    | _, _ => s.byteAt h
  if s.direct h = true then b = s.byteAt h
  else match s.line? t (lineKey p a) with
    | none => b = behind
    | some l => b = byteOf l.data (a % 256) ∨ (l.anyDirty.getLsbD (a % 256) = false ∧ b = behind)

/-- Of the ranges the one line with the key stands in L1, dirty for context `c` alone, its home the line of device memory at
`b`; none of them stands in the cluster's cache, which has room, and nothing is poisoned. -/
def State.oneDirty (s : State) (t : TileNo) (c : CtxNo) (p : PartNo) (rs : Ranges) (key : Nat) (l : Line) (b : Nat) : Prop :=
  s.lineKeys t p rs = [key] ∧ s.clineKeys (clusterOf t) p rs = [] ∧ s.line? t key = some l ∧ l.home = .dram b ∧ b % 256 = 0
    ∧ l.bad = 0 ∧ s.homePoison (.dram b) 256 = false ∧ (∀ o : CtxNo, o ≠ c → l.dirty[o] = 0) ∧ s.hasRoom t p (keyVa key)
    ∧ lineKey p (keyVa key) = key ∧ MemsWf s

/-- The context's dirty bytes in the ranges have been written back as far as `reach`, 1 the cluster's cache, 2 and above the
home, and the clean lines of L1 in them are gone where it `drops` them: nothing moves where no line of the ranges is held,
and a line that stands alone goes where the rule has it. -/
def State.wroteBack (s s' : State) (t : TileNo) (c : CtxNo) (p : PartNo) (rs : Ranges) (reach : Nat) (drops : Bool) : Prop :=
  (s.lineKeys t p rs = [] → s.clineKeys (clusterOf t) p rs = [] → SameMemory s s')
    ∧ ∀ key l b, s.oneDirty t c p rs key l b →
      let sent := fun i => (l.dirty[c]).getLsbD i = true ∧ ∃ r ∈ rs, r.1 ≤ keyVa key + i ∧ keyVa key + i < r.1 + r.2
      (∀ i < 256, sent i → 2 ≤ reach → Mem.read s'.dram (b + i) = byteOf l.data i)
      ∧ (∀ j, (j < b ∨ b + 256 ≤ j ∨ ¬ sent (j - b) ∨ reach < 2) → Mem.read s'.dram j = Mem.read s.dram j)
      ∧ (reach = 1 → (∃ i < 256, sent i) → ∃ k, s'.cline? (clusterOf t) key = some k
        ∧ ∀ i < 256, sent i → byteOf k.data i = byteOf l.data i ∧ k.dirty.getLsbD i = true)
      ∧ (drops = true → 1 ≤ reach → (∀ i < 256, (l.dirty[c]).getLsbD i = true → sent i) → s'.line? t key = none)
      ∧ (drops = false → ∃ k, s'.line? t key = some k ∧ k.data = l.data
        ∧ (1 ≤ reach → ∀ i < 256, sent i → (k.dirty[c]).getLsbD i = false))

/-! ### Tables of a page -/

/-- The places of the entries that the walk of a page's address reads, its own last (R338). -/
def entryPath (pt : Map Word) (root va : Nat) (big : Bool) : List Nat :=
  let next := fun (a : Nat) => pointerTo (Map.getD pt a 0)
  let e1 := root + 8 * (va / 2 ^ 39)
  let e2 := next e1 + 8 * (va / 2 ^ 30 % 512)
  let e3 := next e2 + 8 * (va / 2 ^ 21 % 512)
  if big then [e1, e2, e3] else [e1, e2, e3, next e3 + 8 * (va / 2 ^ 16 % 32)]

/-- The tables above a page's entry stand, each at a place of its own (R338). -/
def State.tabled (s : State) (p : PartNo) (va : Nat) (big : Bool) : Prop :=
  let pt := (s.part p).pt
  let path := entryPath pt (s.part p).tframe va big
  va < 2 ^ 52 ∧ path.Nodup ∧ ∀ q ∈ path.dropLast.zipIdx, pointerOk (Map.getD pt q.1 0) (decide (q.2 < 2)) = true

/-! ### Forms -/

/-- The scalar instructions: what they change is one result in flight. -/
def isScalar : Instr → Bool
  | .add .. | .sub .. | .addi .. | .mul .. | .mulh .. | .fcmp .. | .div .. | .divu .. | .rem .. | .fcvt .. | .and ..
  | .or .. | .xor .. | .shl .. | .shr .. | .sar .. | .min .. | .max .. | .slt .. | .sltu .. | .sel .. | .bfx ..
  | .bfi .. | .clz .. | .popc .. | .li .. | .amov .. | .fadd .. | .fmul .. | .ffma .. => true
  | _ => false

/-- The lane-wise vector instructions of R147 and R148 and those of R154 to R162: what they change is one vector result
in flight and the registers and slot it takes. -/
def isVector : Instr → Bool
  | .vaddF .. | .vaddI .. | .vsubF .. | .vsubI .. | .vmulF .. | .vmulI .. | .vfmaF .. | .vminF .. | .vmaxF ..
  | .vminI .. | .vmaxI .. | .vabsF .. | .vnegF .. | .vand .. | .vor .. | .vxor .. | .vshl .. | .vshr .. | .vsar ..
  | .vsel .. | .vmov .. | .vacc .. | .vrdt .. | .vrotr .. | .vrotc .. | .vbcr .. | .vbcc .. | .vredr .. | .vredc ..
  | .vtrn .. | .vexp2 .. | .vlog2 .. | .vexp .. | .vlog .. | .vrcp .. | .vrsq .. | .vtanh .. | .vsigm .. | .vcvt ..
  | .vnarw .. | .vwidn .. => true
  | _ => false

/-- The branches and jumps. -/
def isBranch : Instr → Bool
  | .br .. | .bri .. | .call .. | .calli .. | .ret .. | .brmz .. | .brmf .. | .banksw .. => true
  | _ => false

/-! ### Class counters (R27) -/

def State.ldUp (s : State) : State := s.onRegs fun g => { g with ld := g.ld + 1 }
def State.stUp (s : State) : State := s.onRegs fun g => { g with st := g.st + 1 }
def State.cpUp (s : State) : State := s.onRegs fun g => { g with cp := g.cp + 1 }
def State.toUp (s : State) : State := s.onRegs fun g => { g with tok := g.tok + 1 }

/-! ### The clock in which a bundle is tried -/

/-- A clock of a tile up to the point at which its turn is decided: what lands, what completes, what asks for work. -/
def State.clockStart (s : State) (t : TileNo) : State :=
  let s1 := (s.meetErrs.freeWound t).onTile t fun x => (x.tick (s.tilePeriod t) s.now).land
  (((allCtxs.foldl (fun s c => s.completeCtx t c) (s1.reissueDue t)).landBanks t).kickFeeds t).askAll t

/-- The state in which the context with the turn tries to issue. -/
def State.turnState (s : State) (t : TileNo) (c : CtxNo) : State :=
  { (s.clockStart t).onTile t (fun x => x.giveTurn c (s.clockStart t).now) with cur := .hw t c }

/-- What a clock does after its try. -/
def State.clockEnd (s0 : State) (t : TileNo) (c : CtxNo) (r : State × Tried) : State :=
  let s1 := (if r.2 == .issued then r.1 else r.1.knownAnswer t).settle t c r.2 ((s0.clockStart t).tilePeriod t)
  let s2 := if s1.allHeld t c r.2 then s1.onCluster (clusterOf t) fun k => { k with cstall := k.cstall + 1 } else s1
  (s2.requests t c).idleClock t

/-- In the next step the clock of tile `t` comes, its context `c` has the turn, stands at a bundle boundary with no event
to take, and tries the bundle `b` that it fetches: no segment entry, stop, pause or pre-emption stands before it. -/
def State.tries (s : State) (t : TileNo) (c : CtxNo) (b : Bundle) : Prop :=
  let s1 := s.turnState t c
  takeFirst s.inputDue s.inputs = none ∧ s.dueTile = some t ∧ (s.clockStart t).forceDue = false
    ∧ (s.clockStart t).holder t = some c ∧ s1.atBoundary t c = true ∧ s1.stopsAtEntry t c = false
    ∧ s1.takeEvent t c = none
    ∧ (s1.ctxAt t c).regs.nest = none ∧ (s1.ctxAt t c).reinject = none ∧ s1.fetch t c = .ok b
    ∧ s1.reach t c b = s1 ∧ s1.reachWait t c b = s1 ∧ s1.stopsHere t c b = false ∧ s1.parked t c = false
    ∧ (s1.pkg.state == .run && s1.preempts t c) = false

/-- The state in which the slots of a bundle are checked. -/
def State.checked (s : State) (t : TileNo) (c : CtxNo) (b : Bundle) : State :=
  s.onCtx t c fun x => { x with npc := some (nextPc x.regs.pc b.words), regs := { x.regs with held := x.regs.heldFor b } }

/-- The state in which they take effect. -/
def State.issuing (s : State) (t : TileNo) (c : CtxNo) (b : Bundle) : State :=
  (s.onCtx t c fun x => x.issuing b (x.regs.heldFor b) (b.d && x.regs.atFirst b && !s.drained t c)).relaunchAll t c

/-! ### Engine commands -/

/-- A source locator names what a command may read now: an address below 2^52 or in MRAM, or a READY bay of its own that
admits the context (R183, R185, R212). -/
def State.srcFit (s : State) (sp : SrcSpace) (w : Word) : Prop :=
  match sp with
  | .global => w.toNat < 2 ^ 52
  | .mram => w.toNat < mramProg
  | .bay => ∃ n o, bayLoc s.curTile w = some (n, o) ∧ (s.bay n).admits s.curCtx = true ∧ (s.bay n).st = .ready

/-- A destination locator names what a command may write now: an address below 2^52, a word of a bank, or a bay that
admits the context and takes stores, EMPTY, or with SHADOW one READY that no command is about to fill (R183, R212, R215). -/
def State.dstFit (s : State) (sp : DstSpace) (w : Word) : Prop :=
  match sp with
  | .global => w.toNat < 2 ^ 52
  | .bank => w.toNat < 2 ^ 16 ∧ w.toNat % 4 = 0
  | .bay => ∃ n o, bayLoc s.curTile w = some (n, o) ∧ (s.bay n).admits s.curCtx = true ∧ (s.bay n).sync = false
      ∧ if (s.bay n).shadow then (s.bay n).st = .ready ∧ s.filling s.curTile n = false else (s.bay n).st = .empty

/-- No operation of the acting context on a barrier of its own tile is held or on its way, so that a registration there
settles nothing first (R192). -/
def State.settled (s : State) : Prop := ∀ o, s.settleRefs o = s

/-- The instruction `i` joins the queue of tile `t` as a command of context `c` with its operands and slot, and CP rises; its
status slot reads 0. Where the context holds nothing else that could go out, nothing more changes but NRES: memory, but for
the barrier it registers with, the units, the other registers and the other contexts stand. -/
def State.queues (s s' : State) (t : TileNo) (c : CtxNo) (i : Instr) (ops : Vector Word 4) (slot : Option SlotNo) : Prop :=
  ∃ m ∈ (s'.tile t).cmds, m.id = s.nextId ∧ m.ctx = c ∧ m.tid = s.tid ∧ m.ins.ins = i ∧ m.ops = ops ∧ m.slot = slot
    ∧ s'.cx.regs.cp = s.cx.regs.cp + 1
    ∧ s'.cx.regs.slots = (match slot with
      | some n => s.cx.regs.slots.set n 0
      | none => s.cx.regs.slots)
    ∧ (s.cx.hold = [] → SameHomes s s' ∧ SameStores s s' ∧ (∀ u, (s'.tile u).l1 = (s.tile u).l1) ∧ (m.bar = none → SameSp s s')
      ∧ SameUnits s s' ∧ SameOthers s s'
      ∧ { s'.cx.regs with cp := s.cx.regs.cp, slots := s.cx.regs.slots, nres := s.cx.regs.nres } = s.cx.regs)

/-- A step stands in the agenda. -/
def State.due (s : State) (ev : Instr) : Prop := ∃ d ∈ s.agenda, d.ev = ev

/-- Every context of a partition is at rest, and no command is left on its tiles (R324, R365). -/
def State.atRest (s s' : State) (p : PartNo) : Prop :=
  ∀ u : TileNo, s.partOf u = some p → (∀ c : CtxNo, s'.ctxAt u c = Ctx.start) ∧ (s'.tile u).cmds = []

end Sys2Proof.Machine
end

