-- ==== Sys2Proof/Certificates/Slice0/Obligations.lean ====
section
/-! DEFINITION. What is claimed of the model, one proposition each, in the order of OBLIGATIONS.json. -/

open Sys2Proof Sys2Proof.Machine

/-! ### Encoding and decoding (R61 to R84) -/

/-- Words written out from R76 to R79 and the operand tables decode to the instructions they stand for. -/
def Obligations.WordsDecode : Prop :=
  decodeTableWord 32 0x298E0200 = some (.add 5 6 7)
  ∧ decodeTableWord 32 0x10020400 = some (.vaddF 2 ⟨0, false⟩ (.v ⟨1, false⟩))
  ∧ decodeTableWord 32 0x43020700 = some (.mma 2 3 .rb8 .rb8 true)
  ∧ decodeTableWord 64 0x0000010018A50801 = some (.pld 3 ⟨5, 2, true, 0x100⟩)
  ∧ decodeTableWord 64 0x8000001021D209C1 = some (.gatom .add .dev 4 9 ⟨7, 0x10⟩)
  ∧ decodeTableWord 64 0x0004C0885B1AEB01 = some (.cpy 11 12 13 14 ⟨some 3, none, false, true, false, .bay, .global⟩)
  ∧ decodeTableWord 32 0x000000F0 = some .texit

/-- Every instruction that words encode is read back from its words, with its flags and every operand, whatever words
follow. -/
def Obligations.DecodeOfEncode : Prop :=
  ∀ (i : Flagged) (rest : List HWord), i.ins.isWord = true → i.ins.wf = true →
    decodeWords none (encode i ++ rest) = .ok (i, rest)

/-- What the decoder reads, in a slot or out of one, is an instruction of the word forms whose operands keep the limits
of their tables, and the bits above its words are left; an instruction in a slot in which its opcode is not legal is
refused by that name, before any reserved field of it is looked at (R80, R84). -/
def Obligations.DecoderKeepsLimits : Prop :=
  (∀ (k : Option Slot) (ws rest : List HWord) (i : Flagged), decodeWords k ws = .ok (i, rest) →
     i.ins.wf = true ∧ i.ins.isWord = true ∧ ∃ front, ws = front ++ rest)
  ∧ (∀ (k : Slot) (i : Flagged) (rest : List HWord), i.ins.isWord = true →
       opcSlot (opcOf ((encode i).headD 0).toNat) k = false →
       decodeWords (some k) (encode i ++ rest) = .error .slotClass)

/-! ### Steps -/

/-- An input that is due is what the next step carries out, and it leaves the inputs; with no input and no clock due,
the step of the agenda's head that is due is carried out. The order is the model's choice (log 1, log 6). -/
def Obligations.StepTakes : Prop :=
  (∀ (s : State) (ev : Instr) (rest : List (Nat × Instr)), takeFirst s.inputDue s.inputs = some (ev, rest) →
     step s = exec ev { s with inputs := rest })
  ∧ (∀ (s : State) (d : Due) (ds : List Due), takeFirst s.inputDue s.inputs = none → s.dueTile = none →
       s.pkg.frozen = false → s.agenda = d :: ds → d.at_ ≤ s.now → step s = exec d.ev { s with agenda := ds })

/-- Every instruction word issued by itself is its meaning at issue with what R71 to R75 put around it; the five that
end their bundle differently add that end. -/
def Obligations.ExecIsIssue : Prop :=
  ∀ (i : Instr) (s : State), i.isWord = true →
    exec i s = match i with
      | .texit | .waitb _ _ _ _ | .tcont _ _ _ _ => Out.wind (s.conclude i (issueOf i s))
      | .trap _ | .sysc _ => Out.after (s.conclude i (issueOf i s))
      | _ => s.conclude i (issueOf i s)

/-- A step runs the decoded instruction: where a clock's turn falls to a context whose bundle decodes to one instruction
with flags 00, the step is the effect that instruction has at issue, in its slot, then the bundle's end and the clock's.
What stands around the issue is the model's clock (log 1). -/
def Obligations.StepRunsInstruction : Prop :=
  ∀ (s : State) (t : TileNo) (c : CtxNo) (b : Bundle) (k : Slot) (i : Instr) (eff : State → Option State) (s2 : State),
    s.tries t c b → b.items = [(k, ⟨i, false, false⟩)] → b.d = true → ((s.turnState t c).ctxAt t c).regs.rep = none →
    i.isWord = true → i ≠ .nop →
    let s1 := s.turnState t c
    let s0 : State := { s1.checked t c b with slot := k }
    s0.ready i = true → issueOf i s0 = .ok eff → (s1.issuing t c b).alive = true →
    eff { s1.issuing t c b with slot := k } = some s2 → s2.alive = true → s2.cur = .hw t c →
    step s = .next (s.clockEnd t c
      ((s2.onCtx t c fun y => y.issued (s1.tile t).cycle (s1.ctxAt t c).regs b).beginWind t c, .issued))

/-! ### Scalar instructions (R40 to R44, R130 to R134) -/

/-- Integer and logical results with their latencies, each completing whenever its registers are ready; leading zeros
and 1 bits counted, and AMOV moving between the files without a step (R40, R41, R130, R133; log 8). -/
def Obligations.ScalarResults : Prop :=
  (∀ (s : State) (d a b c : XReg),
     (s.ready (.add d a b) = true → exec (.add d a b) s = .next (s.flyX 1 d (s.x a + s.x b)))
     ∧ (s.ready (.sub d a b) = true → exec (.sub d a b) s = .next (s.flyX 1 d (s.x a - s.x b)))
     ∧ (∀ imm, s.ready (.addi d a imm) = true →
         exec (.addi d a imm) s = .next (s.flyX 1 d (s.x a + imm.signExtend 64)))
     ∧ (s.ready (.mul d a b) = true → exec (.mul d a b) s = .next (s.flyX 3 d (s.x a * s.x b)))
     ∧ (s.ready (.mulh d a b) = true → exec (.mulh d a b) s =
         .next (s.flyX 3 d (((s.x a).signExtend 128 * (s.x b).signExtend 128).extractLsb' 64 64)))
     ∧ (s.ready (.and d a b) = true → exec (.and d a b) s = .next (s.flyX 1 d (s.x a &&& s.x b)))
     ∧ (s.ready (.or d a b) = true → exec (.or d a b) s = .next (s.flyX 1 d (s.x a ||| s.x b)))
     ∧ (s.ready (.xor d a b) = true → exec (.xor d a b) s = .next (s.flyX 1 d (s.x a ^^^ s.x b)))
     ∧ (s.ready (.shl d a b) = true → exec (.shl d a b) s = .next (s.flyX 1 d (s.x a <<< ((s.x b).toNat % 64))))
     ∧ (s.ready (.shr d a b) = true → exec (.shr d a b) s = .next (s.flyX 1 d (s.x a >>> ((s.x b).toNat % 64))))
     ∧ (s.ready (.sar d a b) = true →
         exec (.sar d a b) s = .next (s.flyX 1 d ((s.x a).sshiftRight ((s.x b).toNat % 64))))
     ∧ (s.ready (.min d a b) = true →
         exec (.min d a b) s = .next (s.flyX 1 d (if (s.x a).toInt ≤ (s.x b).toInt then s.x a else s.x b)))
     ∧ (s.ready (.max d a b) = true →
         exec (.max d a b) s = .next (s.flyX 1 d (if (s.x b).toInt ≤ (s.x a).toInt then s.x a else s.x b)))
     ∧ (s.ready (.slt d a b) = true →
         exec (.slt d a b) s = .next (s.flyX 1 d (if (s.x a).toInt < (s.x b).toInt then 1 else 0)))
     ∧ (s.ready (.sltu d a b) = true →
         exec (.sltu d a b) s = .next (s.flyX 1 d (if (s.x a).toNat < (s.x b).toNat then 1 else 0)))
     ∧ (s.ready (.sel d a b c) = true →
         exec (.sel d a b c) s = .next (s.flyX 1 d (if s.x c = 0 then s.x b else s.x a)))
     ∧ (∀ v, s.ready (.li d v) = true → exec (.li d v) s = .next (s.flyX 1 d v)))
  ∧ (∀ (s : State) (d a : XReg) (e f : AReg),
       (s.ready (.clz d a) = true → ∃ n ≤ 64, exec (.clz d a) s = .next (s.flyX 1 d (BitVec.ofNat 64 n)) ∧
         (s.x a).toNat < 2 ^ (64 - n) ∧ (n < 64 → (s.x a).getLsbD (63 - n) = true))
       ∧ (s.ready (.popc d a) = true → exec (.popc d a) s = .next (s.flyX 1 d
         (BitVec.ofNat 64 ((List.range 64).countP fun i => (s.x a).getLsbD i))))
       ∧ (s.ready (.amov (.toA e a)) = true → exec (.amov (.toA e a)) s = .next (s.fly 1 (.a e) (s.x a) 0 0 0 false))
       ∧ (s.ready (.amov (.fromA d f)) = true → exec (.amov (.fromA d f)) s = .next (s.flyX 1 d (s.a f)))
       ∧ (s.ready (.amov (.aToA e f)) = true → exec (.amov (.aToA e f)) s = .next (s.fly 1 (.a e) (s.a f) 0 0 0 false)))

/-- The corners of division (R42), each of which completes after 20 clocks: no division traps. -/
def Obligations.DivisionResults : Prop :=
  ∀ (s : State) (d a b : XReg),
    (s.ready (.div d a b) = true → exec (.div d a b) s = .next (s.flyX 20 d
      (if s.x b = 0 then BitVec.allOnes 64
       else if s.x a = BitVec.intMin 64 ∧ s.x b = BitVec.allOnes 64 then BitVec.intMin 64
       else BitVec.ofInt 64 ((s.x a).toInt.tdiv (s.x b).toInt))))
    ∧ (s.ready (.divu d a b) = true → exec (.divu d a b) s = .next (s.flyX 20 d
      (if s.x b = 0 then BitVec.allOnes 64 else BitVec.ofNat 64 ((s.x a).toNat / (s.x b).toNat))))
    ∧ (s.ready (.rem d a b) = true → exec (.rem d a b) s = .next (s.flyX 20 d
      (if s.x b = 0 then s.x a
       else if s.x a = BitVec.intMin 64 ∧ s.x b = BitVec.allOnes 64 then 0
       else BitVec.ofInt 64 ((s.x a).toInt.tmod (s.x b).toInt))))

/-- BFX and BFI bit by bit, and Illegal Operand for an offset or a width out of range, which leaves every X register as
it was and saves the bundle's own PC (R43). -/
def Obligations.BitFieldResults : Prop :=
  ∀ (s : State) (d a b c : XReg),
    (s.ready (.bfx d a b c) = true → (s.x b).toNat < 64 → (s.x c).toNat ≤ 64 →
      ∃ v : Word, exec (.bfx d a b c) s = .next (s.flyX 1 d v) ∧
        ∀ j < 64, v.getLsbD j = (decide (j < (s.x c).toNat) && (s.x a).getLsbD ((s.x b).toNat + j)))
    ∧ (s.ready (.bfi d a b c) = true → (s.x b).toNat < 64 → (s.x c).toNat ≤ 64 →
      ∃ v : Word, exec (.bfi d a b c) s = .next (s.flyX 1 d v) ∧
        ∀ j < 64, v.getLsbD j = if (s.x b).toNat ≤ j ∧ j < (s.x b).toNat + (s.x c).toNat
          then (s.x a).getLsbD (j - (s.x b).toNat) else (s.x d).getLsbD j)
    ∧ (s.ready (.bfx d a b c) = true → 64 ≤ (s.x b).toNat ∨ 64 < (s.x c).toNat →
      exec (.bfx d a b c) s = .next (s.trapCur .illegalOperand))
    ∧ (s.ready (.bfi d a b c) = true → 64 ≤ (s.x b).toNat ∨ 64 < (s.x c).toNat →
      exec (.bfi d a b c) s = .next (s.trapCur .illegalOperand))
    ∧ ∀ (t : TileNo) (e : CtxNo), s.cur = .hw t e → s.cx.frame = none → s.frameOk t e = true →
      (s.trapCur .illegalOperand).cx.regs.xs = s.cx.regs.xs ∧ (s.trapCur .illegalOperand).cx.regs.tepc = s.cx.regs.pc

/-- The scalar floating-point results: operands are bits [31:0], an FP32 result has zeros above it, and the flags go with
it (R10, R131, R132, R134). -/
def Obligations.ScalarFloatResults : Prop :=
  ∀ (s : State) (d a b c : XReg) (p : FPred),
    let lo := fun (r : XReg) => (s.x r).extractLsb' 0 32
    (s.ready (.fadd d a b) = true → exec (.fadd d a b) s =
      .next (s.flyX 4 d ((fAdd s.fp (lo a) (lo b)).1.zeroExtend 64) (fAdd s.fp (lo a) (lo b)).2))
    ∧ (s.ready (.fmul d a b) = true → exec (.fmul d a b) s =
      .next (s.flyX 4 d ((fMul s.fp (lo a) (lo b)).1.zeroExtend 64) (fMul s.fp (lo a) (lo b)).2))
    ∧ (s.ready (.ffma d a b c) = true → exec (.ffma d a b c) s =
      .next (s.flyX 4 d ((fFma s.fp (lo a) (lo b) (lo c)).1.zeroExtend 64) (fFma s.fp (lo a) (lo b) (lo c)).2))
    ∧ (s.ready (.fcmp p d a b) = true → exec (.fcmp p d a b) s =
      .next (s.flyX 2 d (if (fCmp s.fp p (lo a) (lo b)).1 = true then 1 else 0) (fCmp s.fp p (lo a) (lo b)).2))
    ∧ ∀ op, s.ready (.fcvt op d a) = true → exec (.fcvt op d a) s =
      .next (s.flyX 4 d (fcvtValue op s.fp (s.x a)).1 (fcvtValue op s.fp (s.x a)).2)

/-- The frame of the scalar instructions: registers, units, memory, the other contexts, the vector pool and the agenda
stand; what changes is the results in flight of the acting context. With X0 as its destination an instruction
changes nothing at all, its flags included (R10). -/
def Obligations.ScalarFrame : Prop :=
  (∀ (s t : State) (i : Instr), isScalar i = true → s.ready i = true → (issueOf i s).isTrap = false →
     exec i s = .next t →
     SameMemory s t ∧ SameRegs s t ∧ SameUnits s t ∧ SameOthers s t ∧ t.agenda = s.agenda
       ∧ (∀ u, (t.tile u).pool = (s.tile u).pool) ∧ ∃ fl, t = s.onCx fun x => { x with flight := fl })
  ∧ (∀ (s : State) (a b c : XReg) (op : FcvtOp) (p : FPred) (v : Word) (imm : BitVec 32),
       ∀ i ∈ [Instr.add 0 a b, .sub 0 a b, .addi 0 a imm, .mul 0 a b, .mulh 0 a b, .fcmp p 0 a b, .div 0 a b, .divu 0 a b,
         .rem 0 a b, .fcvt op 0 a, .and 0 a b, .or 0 a b, .xor 0 a b, .shl 0 a b, .shr 0 a b, .sar 0 a b, .min 0 a b,
         .max 0 a b, .slt 0 a b, .sltu 0 a b, .sel 0 a b c, .clz 0 a, .popc 0 a, .li 0 v, .fadd 0 a b, .fmul 0 a b,
         .ffma 0 a b c],
         exec i s = .next (if s.ready i then s else s.onTile s.curTile fun x =>
           if s.scoreboarded i then x else x.startMove s.curCtx (insNames i)))

/-- At its result clock a scalar result stands in its register, its flags are ORed in, and it is no longer in flight; X0
keeps reading 0. A result whose clock has not come stays in flight, and a finished rename move leaves the tile (R17,
R31, R71). -/
def Obligations.ResultLands : Prop :=
  (∀ (s : State) (t : TileNo) (c : CtxNo) (f : Flight) (d : XReg),
     (s.ctxAt t c).flight = [f] → f.due ≤ (s.tile t).cycle → f.dest = .x d →
     ∃ s' : State, exec (.resultClock t c) s = .next s'
       ∧ (s'.ctxAt t c).regs.x d = (if d = 0 then 0 else f.val)
       ∧ (∀ r, r ≠ d → (s'.ctxAt t c).regs.x r = (s.ctxAt t c).regs.x r)
       ∧ (s'.ctxAt t c).regs.fpctl = (s.ctxAt t c).regs.fpctl ||| (f.ffl.zeroExtend 64 <<< 4)
       ∧ (s'.ctxAt t c).flight = [] ∧ SameMemory s s')
  ∧ ((∀ (s : State) (t : TileNo) (c : CtxNo), (∀ f ∈ (s.ctxAt t c).flight, (s.tile t).cycle < f.due) →
       exec (.resultClock t c) s = .next s)
     ∧ ∀ (s : State) (t : TileNo) (n : Nat), (s.tile t).spill = some n → n ≤ (s.tile t).cycle →
       exec (.renameSpill t) s = .next (s.onTile t fun x => { x with spill := none }))

/-! ### Control (R101 to R116, R129) -/

/-- NOP and IFENCE issue and change nothing; HALT stops its context in S and raises Privilege Violation in U; YIELD issues
where it has blocked before, and else notes that it has blocked; WAITC issues and changes nothing while every class
counter is within its bound, and else only exposes a segment that still holds what it waits for (R115, R116, R129,
R320; log 19, 22). -/
def Obligations.WaitsAndHalts : Prop :=
  ∀ (s : State) (b : Bounds),
    exec .nop s = .next s ∧ exec .ifence s = .next s
    ∧ (s.cx.regs.priv = .S → exec .halt s = .next (s.onCx fun x => { x with run := .halted }))
    ∧ (s.cx.regs.priv = .U → exec .halt s = .next (s.trapCur .privilegeViolation))
    ∧ (s.cx.yielded = true → exec .yield s = .next (s.onCx fun x => { x with yielded := false }))
    ∧ (s.cx.yielded = false → exec .yield s = .next (s.onCx fun x => { x with yielded := true }))
    ∧ (s.cx.regs.ld ≤ b.ld.toNat ∧ s.cx.regs.st ≤ b.st.toNat ∧ s.cx.regs.cp ≤ b.cp.toNat ∧ s.cx.regs.tok ≤ b.tok.toNat →
      exec (.waitc b) s = .next s)
    ∧ (¬ (s.cx.regs.ld ≤ b.ld.toNat ∧ s.cx.regs.st ≤ b.st.toNat ∧ s.cx.regs.cp ≤ b.cp.toNat
        ∧ s.cx.regs.tok ≤ b.tok.toNat) → exec (.waitc b) s =
        .next (if b.cp.toNat < s.cx.regs.cp ∧ s.cx.commitWait = false ∧ s.holdsCmd = true then s.exposeCur else s))

/-- A relative branch goes to its target within the bank three clocks later, falls through where its condition fails,
and raises Illegal Operand where it is taken out of the bank; CALL links the next bundle's PC. A jump through a
register goes to a plain PC of the same bank three clocks later, BANKSW to one of the other bank six clocks later
where no other task has reserved it; any other value raises Illegal Operand (R102 to R108, R215). -/
def Obligations.Branches : Prop :=
  (∀ (s : State) (c : Cond) (a b d : XReg) (off : BitVec 32),
     let pc := s.cx.regs.pc.toNat
     let t : Int := (pc % 0x8000 : Nat) + off.toInt
     let w := BitVec.ofNat 64 (pc / 0x8000 * 0x8000 + t.toNat)
     (s.ready (.br c a b off) = true →
       exec (.br c a b off) s = .next (if Cond.holds c (s.x a) (s.x b) = false then s
         else if 0 ≤ t ∧ t ≤ 32764 then s.goto w 3 else s.trapCur .illegalOperand))
     ∧ (s.ready (.call d off) = true →
       exec (.call d off) s = .next (if 0 ≤ t ∧ t ≤ 32764 then (s.flyX 1 d s.seqPc).goto w 3
         else s.trapCur .illegalOperand))
     ∧ exec (.brmz off) s = .next (if s.cx.regs.top ≠ 0 then s
         else if 0 ≤ t ∧ t ≤ 32764 then s.goto w 3 else s.trapCur .illegalOperand)
     ∧ exec (.brmf off) s = .next (if s.cx.regs.top ≠ BitVec.allOnes 1024 then s
         else if 0 ≤ t ∧ t ≤ 32764 then s.goto w 3 else s.trapCur .illegalOperand))
  ∧ (∀ a b : Word, (Cond.holds .al a b = true) ∧ (Cond.holds .eq a b = true ↔ a = b) ∧ (Cond.holds .ne a b = true ↔ a ≠ b)
       ∧ (Cond.holds .lt a b = true ↔ a.toInt < b.toInt) ∧ (Cond.holds .ge a b = true ↔ b.toInt ≤ a.toInt)
       ∧ (Cond.holds .ltu a b = true ↔ a.toNat < b.toNat) ∧ (Cond.holds .geu a b = true ↔ b.toNat ≤ a.toNat))
  ∧ (∀ (s : State) (a d : XReg),
       let w := s.x a
       let plain := w.toNat < 2 ^ 16 ∧ w.toNat % 4 = 0
       let same := pcBank w = pcBank s.cx.regs.pc
       (s.ready (.bri a) = true → exec (.bri a) s = .next (if plain ∧ same then s.goto w 3 else s.trapCur .illegalOperand))
       ∧ (s.ready (.ret a) = true → exec (.ret a) s = .next (if plain ∧ same then s.goto w 3 else s.trapCur .illegalOperand))
       ∧ (s.ready (.calli d a) = true → exec (.calli d a) s =
         .next (if plain ∧ same then (s.flyX 1 d s.seqPc).goto w 3 else s.trapCur .illegalOperand))
       ∧ (s.ready (.banksw a) = true → exec (.banksw a) s =
         .next (if plain ∧ ¬ same ∧ s.bankTaken (pcBank w) = false then s.goto w 6 else s.trapCur .illegalOperand)))

/-- The frame of branches and jumps: memory, units and the other contexts stand, and of the acting context only the next
PC, the clock of its next issue and, for a link, the results in flight change. -/
def Obligations.BranchFrame : Prop :=
  ∀ (s t : State) (i : Instr), isBranch i = true → s.ready i = true → (issueOf i s).isTrap = false → exec i s = .next t →
    SameMemory s t ∧ SameRegs s t ∧ SameUnits s t ∧ SameOthers s t ∧ t.agenda = s.agenda
      ∧ ∃ fl np at_, t = s.onCx fun x => { x with flight := fl, npc := np, resumeAt := at_ }

/-- The loop instructions: LSET sets a level's counts, LSTR a stride, LBRK an arm, and LRUN starts its nest: every level in
it is active at its count, every other inactive, its body begins after LRUN's bundle with N words to count, and nothing is
captured; counts out of range raise Illegal Operand (R23, R109 to R112). -/
def Obligations.LoopInstructions : Prop :=
  ∀ (s : State) (l lo hi : LevelNo) (a : XReg) (i : AReg) (count : BitVec 24) (stride : BitVec 32) (n : BitVec 7),
    let k := (s.x a).toNat + count.toNat
    (s.ready (.lset l a count) = true → exec (.lset l a count) s =
      .next (if 1 ≤ k ∧ k ≤ 16777215 then s.onRegs fun g => { g with
          lcs := g.lcs.set l { g.lcs[l] with act := false, init := BitVec.ofNat 24 k, cur := BitVec.ofNat 24 k } }
        else s.trapCur .illegalOperand))
    ∧ exec (.lstr l i stride) s = .next (s.onRegs fun g => { g with lstr := g.lstr.set (strideAt l i) stride })
    ∧ exec (.lbrk l a) s = .next (s.onRegs fun g => { g with
        lcs := g.lcs.set l { g.lcs[l] with arm := if a = 0 then none else some a } })
    ∧ ((∀ m : LevelNo, lo ≤ m → m ≤ hi → (s.cx.regs.lcs[m]).init ≠ 0) →
      exec (.lrun lo hi n) s = .next (s.onRegs fun g => { g with
        lcs := Vector.ofFn fun m => { g.lcs[m] with
          act := decide (lo ≤ m ∧ m ≤ hi), cur := if lo ≤ m ∧ m ≤ hi then (g.lcs[m]).init else (g.lcs[m]).cur },
        nest := some { lo := lo, hi := hi, n := n.toNat, body := [], counted := 0, complete := false, pos := 0,
                       start := s.seqPc, waiting := false } }))
    ∧ ((∃ m : LevelNo, lo ≤ m ∧ m ≤ hi ∧ (s.cx.regs.lcs[m]).init = 0) →
      exec (.lrun lo hi n) s = .next (s.trapCur .illegalOperand))

/-! ### Tasks and the system (R117 to R128, R135 to R138, R301 to R311) -/

/-- TEXIT, WAITB and TCONT end their task: with their bundle a segment entry is made, the context winds down with what the
instruction leaves, and nothing issues any more; a wait takes a free entry of the pool, and raises Pool Empty where there
is none (R117 to R119, R317). That a task which ends in a handler leaves no frame, and that the entry taken is the lowest,
are the model's choices (logs 23 and 76). -/
def Obligations.TasksEnd : Prop :=
  ∀ (s : State) (t : TileNo) (c : CtxNo) (st a g : XReg) (live : Live) (bar : Bool),
    let i : Instr := if bar then .waitb st a g live else .tcont st a g live
    s.cur = .hw t c → s.cx.run = .bound →
    (∃ s', exec .texit s = .next s' ∧ (s'.ctxAt t c).run = .winding ∧ (s'.ctxAt t c).endWait = some none
      ∧ (s'.ctxAt t c).seg = s.cx.seg + 1 ∧ (s'.ctxAt t c).frame = none)
    ∧ (∀ k, s.ready i = true → s.freeCont s.curPart s.curTile = some k →
      ∃ s', exec i s = .next s' ∧ (s'.ctxAt t c).run = .winding ∧ (s'.ctxAt t c).seg = s.cx.seg + 1
        ∧ (s'.ctxAt t c).endWait = some (some ⟨k, bar, s.x a, s.x g, live, st, s.seqPc⟩)
        ∧ (s'.ctxAt t c).regs.nres = true ∧ (s'.cont? s.curPart k).isSome = true)
    ∧ (s.ready i = true → s.freeCont s.curPart s.curTile = none →
      exec i s = .next (s.trapCur .poolEmpty).windCur)

/-- TSIG and TDEP leave with their segment and count in CP; TSPAWN takes a free slot of the task table, returns its
handle 64 clocks later and sends the check of its descriptor, or returns all ones where there is none, counting in CP as
well; with CP at its maximum they wait. TARM answers 3 for an object that does not translate, 2 for a deadline already
passed, whose step leaves with its segment, 1 where 4,096 timers are armed, else 0 with the timer in the wheel and its
deadline scheduled, each 64 clocks later (R27, R123 to R126, R128). The order of TARM's checks is log 24, that TIME goes
on past 2^64 and is compared whole log 75, which free slot and timer is taken log 76: the model's choices. -/
def Obligations.TasksSend : Prop :=
  (∀ (s : State) (a b d : XReg) (addend : BitVec 32) (n : BitVec 16),
     let p := s.curPart
     let sp : Spawn := ⟨(s.x a).toNat, (s.x b).toNat, none, Vector.replicate 8 0, n.toNat,
       if n = 0 then some s.now else none, none, false, s.ctxid s.curTile s.curCtx⟩
     (s.ready (.tsig a b addend) = true → s.cx.regs.cp < 31 → exec (.tsig a b addend) s =
       .next (s.cpUp.holdStep 1
         (.signalStep (.tsig s.curTile s.curCtx s.tid) p (s.x a) (s.x b + addend.signExtend 64))).setNres)
     ∧ (s.ready (.tdep a n) = true → s.cx.regs.cp < 31 → exec (.tdep a n) s =
       .next (s.cpUp.holdStep 1 (.taskTableStep s.curTile s.curCtx s.tid p (s.x a) n.toNat)).setNres)
     ∧ (∀ i, s.ready (.tspawn d a b n) = true → s.cx.regs.cp < 31 → s.freeSlot p = some i →
       exec (.tspawn d a b n) s = .next ((((s.cpUp.setSlot p i (some (.spawn sp)) (s.slotGen p i)).flyX 64 d
           (BitVec.ofNat 64 ((s.slotGen p i).toNat * 2 ^ 24 + i))).exposeCur.holdStep 0
         (.tspawnCheck s.curTile s.curCtx s.tid p i (s.slotGen p i))).setNres))
     ∧ (s.ready (.tspawn d a b n) = true → s.cx.regs.cp < 31 → s.freeSlot p = none →
       exec (.tspawn d a b n) s = .next (((s.cpUp.flyX 64 d (BitVec.allOnes 64)).exposeCur.holdStep 0
         (.tspawnCheck s.curTile s.curCtx s.tid p 16384 0)).setNres))
     ∧ (31 ≤ s.cx.regs.cp →
       ∀ i ∈ [Instr.tsig a b addend, .tdep a n, .tspawn d a b n], s.ready i = true → exec i s = .next s))
  ∧ (∀ (s : State) (d t a b : XReg) (relt : Bool),
       let p := s.curPart
       let deadline := if relt then s.time + (s.x t).toNat else (s.x t).toNat
       let r := (s.exposeCur.writeBack s.curTile (some s.curCtx) wholeSpace .part).setNres
       s.ready (.tarm d t a b relt) = true →
       (∀ e, r.signalHome p (s.x a) = .error e → exec (.tarm d t a b relt) s = .next (r.flyX 64 d 3))
       ∧ (∀ h, r.signalHome p (s.x a) = .ok h → deadline < s.time → exec (.tarm d t a b relt) s =
         .next ((r.flyX 64 d 2).holdStep 0 (.signalStep (.timer s.curTile s.curCtx) p (s.x a) (s.x b))))
       ∧ (∀ h, r.signalHome p (s.x a) = .ok h → s.time ≤ deadline → r.freeTimer p = none →
         exec (.tarm d t a b relt) s = .next (r.flyX 64 d 1))
       ∧ ∀ h k, r.signalHome p (s.x a) = .ok h → s.time ≤ deadline → r.freeTimer p = some k →
         let armed := r.onPart p fun y =>
           { y with timers := Map.set y.timers k ⟨s.curTile, s.curCtx, r.nextId, deadline, s.x a, s.x b⟩ }
         exec (.tarm d t a b relt) s = .next ((armed.schedAt (max armed.now (armed.tickOf deadline))
           (orderKey s.curTile s.curCtx) (.timerDeadline p k)).flyX 64 d 0))

/-- The CSR instructions: the old value one clock later, and the new one written at once; a CSR of the system range in
U, a number of no CSR, and a write of a read-only one trap, and CSRS and CSRC with X0 only read. A write keeps
reserved bits 0 and moves no other register. Every number of the map reads what the map says, and no other number is one
(R28 to R31, R135, R301, R336). That a number of 0x200 and above raises Illegal Operand at U is the model's choice
(log 80). -/
def Obligations.CsrInstructions : Prop :=
  (∀ (s : State) (d a : XReg) (csr : BitVec 12),
     let n := csr.toNat
     let barred := 0x100 ≤ n ∧ n ≤ 0x1FF ∧ s.cx.regs.priv = .U
     let write := fun (v : Word) (old : Word) => (s.onCx fun x => x.csrWrite n v).flyX 1 d old
     (∀ i ∈ [Instr.csrr d csr, .csrw d a csr, .csrs d a csr, .csrc d a csr], s.ready i = true →
       (barred → exec i s = .next (s.trapCur .privilegeViolation))
       ∧ (¬ barred → s.csrRead n = none → exec i s = .next (s.trapCur .illegalOperand)))
     ∧ ∀ old, ¬ barred → s.csrRead n = some old →
       (s.ready (.csrr d csr) = true → exec (.csrr d csr) s = .next (s.flyX 1 d old))
       ∧ (s.ready (.csrw d a csr) = true → exec (.csrw d a csr) s =
         .next (if csrWritable n = true then write (s.x a) old else s.trapCur .illegalOperand))
       ∧ (s.ready (.csrs d a csr) = true → exec (.csrs d a csr) s =
         .next (if a = 0 then s.flyX 1 d old
           else if csrWritable n = true then write (old ||| s.x a) old else s.trapCur .illegalOperand))
       ∧ (s.ready (.csrc d a csr) = true → exec (.csrc d a csr) s =
         .next (if a = 0 then s.flyX 1 d old
           else if csrWritable n = true then write (old &&& ~~~(s.x a)) old else s.trapCur .illegalOperand)))
  ∧ (∀ (x : Ctx) (v : Word), x.flagsNow = 0 → x.stkyNow = 0 →
       (x.csrWrite 0x000 v).regs = { x.regs with fpctl := v &&& 0x7F7 }
       ∧ (x.csrWrite 0x001 v).regs = { x.regs with stky := v &&& 0x103 }
       ∧ (x.csrWrite 0x100 v).regs = { x.regs with ie := v.getLsbD 1, pprv := v.getLsbD 0 }
       ∧ (x.csrWrite 0x101 v).regs = { x.regs with tvec := v &&& 0x7FFC }
       ∧ (x.csrWrite 0x103 v).regs = { x.regs with tepc := v &&& 0xFFFC }
       ∧ (x.csrWrite 0x105 v).regs = { x.regs with sscr := v }
       ∧ (∀ k : Fin 16, (x.csrWrite (0x020 + k.val) v).regs =
         { x.regs with asteps := x.regs.asteps.set k (v.extractLsb' 0 32) })
       ∧ (∀ k : Fin 96, (x.csrWrite (0x040 + k.val) v).regs =
         { x.regs with lstr := x.regs.lstr.set k (v.extractLsb' 0 32) })
       ∧ ∀ n, csrWritable n = false → x.csrWrite n v = x)
  ∧ (∀ n, csrWritable n = true ↔ n ∈ [0x000, 0x001, 0x100, 0x101, 0x103, 0x105] ∨ (0x020 ≤ n ∧ n ≤ 0x02F)
      ∨ (0x040 ≤ n ∧ n ≤ 0x09F))
  ∧ ∀ s : State, let x := s.cx
      let g := x.regs
      let num := fun n => some (BitVec.ofNat 64 n)
      (∀ z ∈ [(0x000, some g.fpctl), (0x001, some g.stky),
          (0x002, num (g.tok * 2 ^ 24 + g.cp * 2 ^ 16 + g.st * 2 ^ 8 + g.ld)),
          (0x003, num (x.mq.length * 2 ^ 16 + x.bf.length * 2 ^ 8 + x.af.length)), (0x006, num g.msd.toNat),
          (0x008, num s.time), (0x009, num s.clock),
          (0x100, num ((s.part s.curPart).prot.toNat * 4 + g.ie.toNat * 2 + g.pprv.toNat)), (0x101, some g.tvec),
          (0x102, some g.tcause), (0x103, some g.tepc), (0x105, some g.sscr),
          (0x106, num (2 ^ 8 + s.pkg.chashKey.toNat)), (0x107, some g.dmiss)], s.csrRead z.1 = z.2)
      ∧ (∀ t c p, s.cur = .hw t c → s.partOf t = some p →
        s.csrRead 0x007 = num (p.val * 2 ^ 24 + t.val / 4 * 2 ^ 16 + t.val * 2 ^ 8 + c.val) ∧ s.csrRead 0x104 = num ((s.part p).frameb + (4 * t.val + c.val) * 0x4000))
      ∧ (∃ v : BitVec 64, s.csrRead 0x004 = some v ∧ ∀ k : VReg, (v.extractLsb' (2 * k.val) 2).toNat = match g.vmap[k] with
          | .unmapped => 0
          | .mapped _ => 1
          | .spilled => 2)
      ∧ (∃ v : BitVec 64, s.csrRead 0x005 = some v ∧ v.toNat < 2 ^ 16 ∧ ∀ k : RtReg,
        v.getLsbD (8 + k.val) = (x.rts[k]).busy ∧ v.getLsbD k.val = (x.rts[k]).xmode)
      ∧ (∀ k : LevelNo, s.csrRead (0x010 + k.val) =
        num ((g.lcs[k]).act.toNat * 2 ^ 63 + (g.lcs[k]).init.toNat * 2 ^ 32 + (g.lcs[k]).cur.toNat))
      ∧ (∀ k : Fin 16, s.csrRead (0x020 + k.val) = num (g.asteps[k]).toNat)
      ∧ (∀ k : Fin 96, s.csrRead (0x040 + k.val) = num (g.lstr[k]).toNat)
      ∧ ∀ n, (s.csrRead n).isSome = true ↔ n ≤ 0x009 ∨ (0x010 ≤ n ∧ n ≤ 0x015) ∨ (0x020 ≤ n ∧ n ≤ 0x02F)
        ∨ (0x040 ≤ n ∧ n ≤ 0x09F) ∨ (0x100 ≤ n ∧ n ≤ 0x107)

/-- Every trap entry with a frame to take: cause and PC saved, the old privilege in PPRV, S in force, the PC at
TVEC.WOFF in the bank the context runs in, the loop sequencer, the held instructions and the class counters LD and
ST at rest, the results in flight and the G accesses in the frame, and the handler 32 clocks later at the earliest;
every other register stands. The frame keeps a latch for every result that ERET left or that is in flight, with the
clocks that remain, a record for every G access not complete, the earliest unreported fault marked as TCAUSE names it, and
with an engine fault the deferred records; it stands in memory in the layout of R309, with the values and the masks of the
vector latches in their save slots, where no cache holds a line of the area, and no other byte changes; lines of L1 that
are clean go. TRAP and SYSC are taken after their bundle, with the next bundle's PC in TEPC and their code in TCAUSE.ARG;
with a frame live, or no room for one, the entry is a double fault (R136, R301, R303 to R307, R309, R313). That the entry
clears the arms of the levels is the model's choice (log 79), as is the empty mask of a latch whose name has lost its
register (log 30) and a REPL of 0 before the first repetition (log 52). -/
def Obligations.TrapEntry : Prop :=
  (∀ (s : State) (t : TileNo) (c : CtxNo) (cause : Cause) (slot arg : Nat) (epc : Word) (report engine : Bool),
     (s.ctxAt t c).frame = none → s.frameOk t c = true →
     let x := s.ctxAt t c
     let y := (s.takeTrap t c cause slot arg epc report engine).ctxAt t c
     y.regs = { x.regs with
         tepc := epc, tcause := BitVec.ofNat 64 (arg * 2 ^ 20 + slot * 2 ^ 16 + cause.code), pprv := x.regs.priv == .S,
         priv := .S, pc := (x.regs.pc &&& 0x8000) ||| (x.regs.tvec &&& 0x7FFC), ld := 0, st := 0, nest := none,
         lcs := x.regs.lcs.map (fun l => { l with act := false, arm := none }),
         held := Vector.replicate 8 Held.nop, rep := none }
       ∧ y.flight = [] ∧ y.gaccs = [] ∧ y.resumeAt = (s.tile t).cycle + 32
       ∧ ∃ f, y.frame = some f ∧ f.epc = epc ∧ f.cause = y.regs.tcause ∧ f.levels = x.regs.lcs ∧ f.nest = x.regs.nest
         ∧ f.held = x.regs.held ∧ f.repl = x.regs.rep ∧ f.eclk = (s.tile t).cycle ∧ f.nondrain = !s.atDrain t c
         ∧ f.latches = (x.reinject.map (·.latches)).getD [] ++ x.flight.map (fun l => { l with
             due := l.due - (s.tile t).cycle,
             mask := match l.dest with
               | .v r pv => if x.regs.vmap[r] = .mapped pv then l.mask else 0
               | _ => l.mask })
         ∧ (let all := (x.reinject.map (·.pend)).getD [] ++ x.gaccs
           let open_ := fun (g : GAcc) => g.stat = .faulted ∧ g.dlv = false
           (report = false ∨ (∀ g ∈ all, ¬ open_ g) → f.pend = all)
           ∧ ∀ as g bs, all = as ++ g :: bs → (∀ h ∈ as, ¬ open_ h) → open_ g → report = true →
             f.pend = as ++ { g with dlv := true } :: bs)
         ∧ f.defer = (if engine then x.dq else []) ∧ y.dq = (if engine then [] else x.dq)
         ∧ f.dovf = (if engine then x.dovf else 0) ∧ y.dovf = if cause.code = 0x30 then 0 else x.dovf)
  ∧ (∀ (s : State) (t : TileNo) (c : CtxNo) (cause : Cause) (slot arg : Nat) (epc : Word) (report engine : Bool) (p : PartNo)
       (pa : Nat) (f : Frame), let a := s.frameAt t c
     let s' := s.takeTrap t c cause slot arg epc report engine
     let saved := fun (l : Flight) => match l.dest with
       | .x _ => false
       | .a _ => false
       | _ => true
     let vec := fun (g : GAcc) => isVecAccess g.ins.ins
     s.partOf t = some p → (s.ctxAt t c).frame = none → s.frameOk t c = true → MemsWf s →
     (∀ o < 0x4000, s.translate p (a + o) true = .ok (.dram (pa + o))) →
     (s'.ctxAt t c).frame = some f → f.latches.length ≤ 160 → (f.latches.filter saved).length ≤ 14 → f.defer.length ≤ 32 →
     f.pend.length ≤ 128 → (f.pend.filter vec).length ≤ 2 →
     (∀ key ∈ s.lineKeys t p [(a, 0x2400)], (∀ l, s.line? t key = some l → l.anyDirty = 0) → s'.line? t key = none)
     ∧ (s.clineKeys (clusterOf t) p [(a, 0x2400)] = [] → s.lineKeys t p [(a, 0x2400)] = [] →
       let mem := fun o n v => holdsNat s'.dram (pa + o) n v
       let slot := fun k v n => holdsNat (s'.tile t).sp (0x540000 + 0x10000 * c.val + 0x1000 * k) n v
       let words := fun i => let ws := encode i
         ((ws.headD 0).toNat, ((ws.drop 1).headD 0).toNat, ((ws.drop 2).headD 0).toNat)
       mem 0 8 f.cause.toNat ∧ mem 8 8 f.epc.toNat
       ∧ mem 0x10 8 (f.latches.length + f.pend.length * 2 ^ 8 + f.defer.length * 2 ^ 16 + f.dovf * 2 ^ 24
         + f.repl.getD 0 * 2 ^ 32 + f.nondrain.toNat * 2 ^ 40 + f.nest.isSome.toNat * 2 ^ 41)
       ∧ mem 0x18 8 f.eclk
       ∧ (∀ k : Fin 8, let w := words (f.held[k]).ins
         mem (0x40 + 16 * k.val) 16 (w.1 + w.2.1 * 2 ^ 32 + w.2.2 * 2 ^ 64 + (f.held[k]).lv * 2 ^ 96))
       ∧ (∀ k : Fin 6, let l := f.levels[k]
         mem (0xC0 + 8 * k.val) 8 (l.act.toNat * 2 ^ 63 + (match l.arm with
           | some r => 2 ^ 62 + r.val * 2 ^ 57
           | none => 0) + l.init.toNat * 2 ^ 24 + l.cur.toNat))
       ∧ mem 0xF0 16 (match f.nest with
           | none => 0
           | some n => n.pos % 64 + n.complete.toNat * 2 ^ 6 + n.lo.val * 2 ^ 7 + n.hi.val * 2 ^ 10 + n.n * 2 ^ 13)
       ∧ (∀ k, (h : k < f.latches.length) → let l := f.latches[k]
         let save := ((f.latches.take k).filter saved).length
         mem (0x100 + 16 * k) 16 ((match l.dest with
             | .x r => r.val * 2 ^ 16 + l.val.toNat * 2 ^ 64
             | .a r => 2 ^ 28 + r.val * 2 ^ 16 + l.val.toNat * 2 ^ 64
             | .v r _ => 2 * 2 ^ 28 + r.val * 2 ^ 16 + save
             | .cm => 3 * 2 ^ 28 + save
             | .ms _ _ d => 4 * 2 ^ 28 + d.toNat * 2 ^ 16 + save)
           + l.slot.val * 2 ^ 33 + l.due * 2 ^ 40 + l.mnar.toNat * 2 ^ 56 + l.ffl.toNat * 2 ^ 57)
         ∧ (saved l = true → mem (0xB00 + 128 * save) 128 l.mask.toNat ∧ match l.dest with
             | .v _ _ => slot save l.vec.toNat 4096
             | _ => slot save l.vec.toNat 128))
       ∧ (∀ k, (h : k < f.defer.length) → let r := f.defer[k]
         mem (0x1200 + 16 * k) 16 (r.detail.toNat + r.opc.toNat * 2 ^ 8 + r.slotno.toNat * 2 ^ 16 + r.addr.toNat * 2 ^ 64))
       ∧ (∀ k, (h : k < f.pend.length) → let g := f.pend[k]
         let save := 14 + ((f.pend.take k).filter vec).length
         let w := words g.ins
         mem (0x1400 + 32 * k) 32 (w.1 + w.2.1 * 2 ^ 32 + g.ea.toNat * 2 ^ 64
           + (if vec g then save else g.data.toNat) * 2 ^ 128 + (match g.stat with
             | .done => 0
             | .faulted => 1
             | .replay => 2
             | .outstanding => 3) * 2 ^ 192 + g.fcode.toNat * 2 ^ 200 + g.dlv.toNat * 2 ^ 208)
         ∧ (vec g = true → slot save g.vec.toNat 4096))
       ∧ (∀ i, i < pa ∨ pa + 0x4000 ≤ i → Mem.read s'.dram i = Mem.read s.dram i)
       ∧ (∀ i, Mem.read s'.host i = Mem.read s.host i) ∧ (∀ i, Mem.read s'.peer i = Mem.read s.peer i)
       ∧ SameSpBut t (0x540000 + 0x10000 * c.val) 0x10000 s s'))
  ∧ (∀ (s : State) (t : TileNo) (c : CtxNo) (code : BitVec 20) (sysc : Bool),
       let i : Instr := if sysc then .sysc code else .trap code
       let cause : Cause := if sysc then .systemCall else .softwareTrap
       s.cur = .hw t c →
       (s.cx.frame = none → s.frameOk t c = true →
         ∃ s', exec i s = .next s' ∧ (s'.ctxAt t c).regs.tepc = s.seqPc
           ∧ (s'.ctxAt t c).regs.tcause = BitVec.ofNat 64 (code.toNat * 2 ^ 20 + cause.code)
           ∧ (s'.ctxAt t c).regs.priv = .S)
       ∧ (s.cx.frame.isSome = true ∨ s.frameOk t c = false →
         exec i s = .next ((s.onCx fun x => { x with afterIssue := some (cause, code) }).doubleFault t c)))

/-- ERET raises Privilege Violation in U. In S it waits while a record of the frame is outstanding, enters the handler
again for a fault not yet reported, and else restores what the entry saved: PC from TEPC, privilege from PPRV, the held
instructions, the sequencer and the repetitions from the frame, the bundle 48 clocks later at the earliest (R137, R310,
R311). -/
def Obligations.ReturnFromTrap : Prop :=
  ∀ (s : State) (t : TileNo) (c : CtxNo), s.cur = .hw t c →
    let x := s.cx
    let back := fun (y : Ctx) => y.regs.pc = x.regs.tepc ∧ y.regs.priv = (if x.regs.pprv then .S else .U)
      ∧ y.resumeAt = (s.tile t).cycle + 48 ∧ y.frame = none ∧ y.regs.xs = x.regs.xs ∧ y.regs.as = x.regs.as
    (x.regs.priv = .U → exec .eret s = .next (s.trapCur .privilegeViolation))
    ∧ (x.regs.priv = .S → x.frame = none → ∃ s', exec .eret s = .next s' ∧ back (s'.ctxAt t c)
        ∧ (s'.ctxAt t c).regs.held = Vector.replicate 8 Held.nop ∧ SameMemory s s' ∧ SameOthers s s')
    ∧ ∀ f, x.regs.priv = .S → x.frame = some f →
      (f.waits = true → exec .eret s = .next s)
      ∧ (f.waits = false → f.unreported = none → ∃ s', exec .eret s = .next s' ∧ back (s'.ctxAt t c)
        ∧ (s'.ctxAt t c).regs.held = f.held ∧ (s'.ctxAt t c).regs.lcs = f.levels ∧ (s'.ctxAt t c).regs.nest = f.nest
        ∧ (s'.ctxAt t c).regs.rep = f.repl ∧ (s'.ctxAt t c).reinject = some ⟨f.latches, f.pend⟩
        ∧ SameMemory s s' ∧ SameOthers s s')
      ∧ ∀ g, f.waits = false → f.unreported = some g → ∃ s', exec .eret s = .next s'
        ∧ (s'.ctxAt t c).regs.pc = x.regs.handler ∧ (s'.ctxAt t c).regs.priv = .S
        ∧ (s'.ctxAt t c).regs.tcause = BitVec.ofNat 64 ((f.cause.getLsbD 19).toNat * 2 ^ 19 + 6 * 2 ^ 16 + g.fcode.toNat)
        ∧ (s'.ctxAt t c).resumeAt = (s.tile t).cycle + 32

/-! ### Vector instructions (R140 to R162) -/

/-- The lane-wise instructions under the top mask, with their latencies: Vb or bits [31:0] of Xb as the second source;
the one-source instructions, the special functions and the conversions; VNARW writes its image whole (R141, R144, R147,
R148, R159 to R162). What a special function gives away from its exact points is free (log 5). -/
def Obligations.VectorLanes : Prop :=
  (∀ (s : State) (d : VReg) (a : VUse) (b : VOrX),
     let rs := a :: vorxV b
     let va := fun (e : Nat) => velem (s.v a.reg) e
     let vb := s.vb b
     let int := fun (f : HWord → HWord → HWord) (e : Nat) => ((f (va e) (vb e), 0) : FRes)
     s.laneAnswers (.vaddF d a b) d rs 4 (fun e => fAdd s.fp (va e) (vb e))
     ∧ s.laneAnswers (.vsubF d a b) d rs 4 (fun e => fSub s.fp (va e) (vb e))
     ∧ s.laneAnswers (.vmulF d a b) d rs 4 (fun e => fMul s.fp (va e) (vb e))
     ∧ s.laneAnswers (.vfmaF d a b) d rs 4 (fun e => fFma s.fp (va e) (vb e) (velem (s.v d) e))
     ∧ s.laneAnswers (.vminF d a b) d rs 2 (fun e => fMinMax false s.fp (va e) (vb e))
     ∧ s.laneAnswers (.vmaxF d a b) d rs 2 (fun e => fMinMax true s.fp (va e) (vb e))
     ∧ s.laneAnswers (.vaddI d a b) d rs 2 (int fun x y => x + y)
     ∧ s.laneAnswers (.vsubI d a b) d rs 2 (int fun x y => x - y)
     ∧ s.laneAnswers (.vmulI d a b) d rs 2 (int fun x y => x * y)
     ∧ s.laneAnswers (.vminI d a b) d rs 2 (int fun x y => if x.toInt ≤ y.toInt then x else y)
     ∧ s.laneAnswers (.vmaxI d a b) d rs 2 (int fun x y => if y.toInt ≤ x.toInt then x else y)
     ∧ s.laneAnswers (.vand d a b) d rs 2 (int fun x y => x &&& y)
     ∧ s.laneAnswers (.vor d a b) d rs 2 (int fun x y => x ||| y)
     ∧ s.laneAnswers (.vxor d a b) d rs 2 (int fun x y => x ^^^ y)
     ∧ s.laneAnswers (.vshl d a b) d rs 2 (int fun x y => x <<< (y.toNat % 32))
     ∧ s.laneAnswers (.vshr d a b) d rs 2 (int fun x y => x >>> (y.toNat % 32))
     ∧ s.laneAnswers (.vsar d a b) d rs 2 (int fun x y => x.sshiftRight (y.toNat % 32))
     ∧ s.laneAnswers (.vsel d a b) d rs 2 (fun e => (if s.cx.regs.cm.getLsbD e then va e else vb e, 0))
     ∧ s.laneAnswers (.vmov d b) d (vorxV b) 2 (fun e => (vb e, 0)))
  ∧ (∀ (s : State) (d : VReg) (a : VUse) (op : VcvtOp) (w : RecWidth),
       let va := fun (e : Nat) => velem (s.v a.reg) e
       let row := fun (j i : Nat) => va (j / 2 * 64 + 32 * (j % 2) + i)
       s.laneAnswers (.vabsF d a) d [a] 2 (fun e => fSign s.fp (fun w => w &&& 0x7FFFFFFF) (va e))
       ∧ s.laneAnswers (.vnegF d a) d [a] 2 (fun e => fSign s.fp (fun w => w ^^^ 0x80000000) (va e))
       ∧ s.laneAnswers (.vexp2 d a) d [a] 12 (fun e => special 0 s.fp (va e))
       ∧ s.laneAnswers (.vlog2 d a) d [a] 12 (fun e => special 1 s.fp (va e))
       ∧ s.laneAnswers (.vexp d a) d [a] 12 (fun e => special 2 s.fp (va e))
       ∧ s.laneAnswers (.vlog d a) d [a] 12 (fun e => special 3 s.fp (va e))
       ∧ s.laneAnswers (.vrcp d a) d [a] 12 (fun e => special 4 s.fp (va e))
       ∧ s.laneAnswers (.vrsq d a) d [a] 12 (fun e => special 5 s.fp (va e))
       ∧ s.laneAnswers (.vtanh d a) d [a] 12 (fun e => special 6 s.fp (va e))
       ∧ s.laneAnswers (.vsigm d a) d [a] 12 (fun e => special 7 s.fp (va e))
       ∧ s.laneAnswers (.vcvt op d a) d [a] 4 (fun e => vcvtElem op s.fp (va e))
       ∧ s.vecAnswers (.vwidn w d a) d [a] 5 s.top (lanes s.top fun e => widen s.fp w
           ((s.v a.reg).extractLsb' (8 * recBytes w * (e / 64 * 2 + e % 64 / 32)) (8 * recBytes w)).toNat (e % 32))
       ∧ ∃ v : VRes, s.vecAnswers (.vnarw w d a) d [a] 8 everyLane v ∧ v.mnar = false
           ∧ ∀ j < 32, (v.vec.extractLsb' (8 * recBytes w * j) (8 * recBytes w)).toNat
             = (narrow s.fp w ((List.range 32).map (row j))).1)

/-- Rotations, broadcasts, transposition and reductions: which element each lane takes, and Illegal Operand for a
broadcast from a column past 63 or a row past 15 that finds its slot free (R75, R156 to R158). -/
def Obligations.VectorMoves : Prop :=
  ∀ (s : State) (d : VReg) (a : VUse) (n : VAmt) (op : RedOp),
    let va := fun (e : Nat) => velem (s.v a.reg) e
    let k := s.amount n
    let tree := fun (levels : Nat) (xs : Nat → HWord) => redTree op s.fp levels ((List.range (2 ^ levels)).map xs)
    s.laneAnswers (.vrotr d a n) d [a] 3 (fun e => (va (e / 64 * 64 + (e % 64 + k) % 64), 0))
    ∧ s.laneAnswers (.vrotc d a n) d [a] 5 (fun e => (va ((e / 64 + k) % 16 * 64 + e % 64), 0))
    ∧ (k ≤ 63 → s.laneAnswers (.vbcr d a n) d [a] 3 (fun e => (va (e / 64 * 64 + k), 0)))
    ∧ (63 < k → s.ready (.vbcr d a n) = true → s.vecFree = true → exec (.vbcr d a n) s = .next (s.trapCur .illegalOperand))
    ∧ (k ≤ 15 → s.laneAnswers (.vbcc d a n) d [a] 5 (fun e => (va (k * 64 + e % 64), 0)))
    ∧ (15 < k → s.ready (.vbcc d a n) = true → s.vecFree = true → exec (.vbcc d a n) s = .next (s.trapCur .illegalOperand))
    ∧ s.laneAnswers (.vtrn d a) d [a] 6 (fun e => (va (e % 64 % 16 * 64 + e % 64 / 16 * 16 + e / 64), 0))
    ∧ s.laneAnswers (.vredr op d a) d [a] 8 (fun e => tree 6 (fun i => va (64 * (e / 64) + i)))
    ∧ s.laneAnswers (.vredc op d a) d [a] 7 (fun e => tree 4 (fun i => va (64 * i + e % 64)))

/-- A compare writes CM whole: the predicate in the lanes of the top mask, 0 in the others. MPUSH puts the top entry
ANDed with CM on a stack of fewer than 16 entries, MINV turns the top entry to the rest of the one below, MPOP drops
it; one clock later, and else Mask Overflow or Mask Underflow; while their slot is occupied they wait (R75, R142, R150 to
R153). -/
def Obligations.MasksWritten : Prop :=
  (∀ (s : State) (a : VUse) (b : VOrX) (p : FPred) (q : IPred),
     let va := fun (e : Nat) => velem (s.v a.reg) e
     let goes := fun (i : Instr) (holds : HWord → HWord → Bool) => s.ready i = true → s.vecFree = true →
       ∃ (cm : Mask) (fl : Fl),
         exec i s = .next ((a :: vorxV b).foldl (fun r u => r.used u none 2)
           ((s.occupy s 2).fly 2 .cm 0 (cm.zeroExtend 32768) 0 fl false))
         ∧ ∀ e < 1024, cm.getLsbD e = (s.top.getLsbD e && holds (va e) (s.vb b e))
     goes (.vcmpF p a b) (fun x y => (fCmp s.fp p x y).1) ∧ goes (.vcmpI q a b) (IPred.holds q))
  ∧ (∀ (s : State), let g := s.cx.regs
       let n := g.msd.toNat
       let fly := fun (e : Fin 16) (w : Bool) (depth : BitVec 5) (m : Mask) =>
         (s.occupy s 1).fly 1 (.ms e w depth) 0 (m.zeroExtend 32768) 0 0 false
       (s.vecFree = true → n < 16 → exec .mpush s = .next (fly (Fin.ofNat 16 n) true (g.msd + 1) (g.top &&& g.cm)))
       ∧ (s.vecFree = true → 1 < n → exec .minv s =
         .next (fly (Fin.ofNat 16 (n - 1)) true g.msd (g.ms[Fin.ofNat 16 (n - 2)] &&& ~~~g.top)))
       ∧ (s.vecFree = true → 1 < n → exec .mpop s = .next (fly 0 false (g.msd - 1) 0))
       ∧ (s.vecFree = true → 16 ≤ n → exec .mpush s = .next (s.trapCur .maskOverflow))
       ∧ (s.vecFree = true → n ≤ 1 →
         exec .minv s = .next (s.trapCur .maskUnderflow) ∧ exec .mpop s = .next (s.trapCur .maskUnderflow))
       ∧ (s.vecFree = false → ∀ i ∈ [Instr.mpush, .minv, .mpop], exec i s = .next s))

/-- A computed result has at every lane of its mask what the instruction computes there, 0 elsewhere, and the flags of
those lanes alone; in the fixed pairwise tree a node of level n + 1 combines two neighbours of level n; and a ready
instruction that writes a vector name finds a physical register for it. What the lanes and the scalar unit compute: sums,
products, fused sums and conversions are the exact value rounded once, with the flags of R40; NaNs, infinities and zeros
give what IEEE 754 has, comparisons and minima go by value, FTZ reads and writes zeros, block elements widen and narrow by
R54 and R55, and the special functions take their exact points and edges (R16, R37 to R40, R54 to R59, R131, R132, R144,
R147, R159 to R162). Which flags VRCP sets at its edges is the model's reading (log 5). -/
def Obligations.VectorParts : Prop :=
  (∀ (m : Mask) (f : Nat → FRes × Bool),
     (∀ e < 1024, velem (lanes m f).vec e = if m.getLsbD e then (f e).1.1 else 0)
     ∧ (∀ i, (lanes m f).fl.getLsbD i = true ↔ ∃ e < 1024, m.getLsbD e = true ∧ (f e).1.2.getLsbD i = true)
     ∧ ((lanes m f).mnar = true ↔ ∃ e < 1024, m.getLsbD e = true ∧ (f e).2 = true))
  ∧ (∀ (op : RedOp) (c : FpCtl) (n : Nat) (xs : Nat → HWord),
       (redTree op c n ((List.range (2 ^ n)).map xs)).1 = treeAt op c xs n 0)
  ∧ (∀ (s : State) (i : Instr) (d : VReg), s.ready i = true → insWrite i = some d → (s.claimV s d).isSome = true)
  ∧ (∀ (rm : Rm) (a b d : HWord), let c : FpCtl := ⟨rm, false⟩
       let x := f32Int a
       let y := f32Int b
       let z := f32Int d
       let xy := f32Neg a != f32Neg b
       let inf := fun (neg : Bool) => ((BitVec.ofNat 32 (f32.signed neg f32.inf), 0) : FRes)
       let rounds := fun (g : Nat) (neg : Bool) (v : Int) (r : FRes) => Rounds f32 rm g neg v.natAbs r.1.toNat r.2
       let void := (f32Inf a = true ∧ f32Code b = 0) ∨ (f32Code a = 0 ∧ f32Inf b = true)
       (f32Fin a = true → f32Fin b = true →
         rounds 1 (sumNeg rm (f32Neg a) (f32Neg b) (x + y)) (x + y) (fAdd c a b)
         ∧ rounds (2 ^ 149) xy (x * y) (fMul c a b)
         ∧ (f32Fin d = true → rounds (2 ^ 149) (sumNeg rm xy (f32Neg d) (x * y + z * 2 ^ 149)) (x * y + z * 2 ^ 149)
           (fFma c a b d))
         ∧ (f32Inf d = true → fFma c a b d = (d, 0)))
       ∧ (f32Nan a = true ∨ f32Nan b = true → fAdd c a b = nanRes [a, b] ∧ fMul c a b = nanRes [a, b])
       ∧ (f32Nan a = true ∨ f32Nan b = true ∨ f32Nan d = true → ¬ void → fFma c a b d = nanRes [a, b, d])
       ∧ (f32Inf a = true → f32Nan b = false →
         fAdd c a b = (if f32Inf b = true ∧ xy = true then (canonNan, flNV) else (a, 0))
         ∧ fMul c a b = (if f32Code b = 0 then (canonNan, flNV) else inf xy)
         ∧ (f32Nan d = false → fFma c a b d = if f32Code b = 0 ∨ (f32Inf d = true ∧ f32Neg d ≠ xy) then (canonNan, flNV)
           else inf xy))
       ∧ fAdd c a b = fAdd c b a ∧ fMul c a b = fMul c b a ∧ fFma c a b d = fFma c b a d
       ∧ fSub c a b = fAdd c a (b ^^^ 0x80000000)
       ∧ (∀ p, let un := f32Nan a = true ∨ f32Nan b = true
           ((fCmp c p a b).1 = true ↔ match p with
             | .eq => ¬ un ∧ x = y
             | .lt => ¬ un ∧ x < y
             | .le => ¬ un ∧ x ≤ y
             | .un => un
             | .ne => un ∨ x ≠ y)
           ∧ (fCmp c p a b).2 = if f32Snan a || f32Snan b then flNV else 0)
       ∧ (∀ mx, let below := x < y ∨ (x = y ∧ f32Neg a = true ∧ f32Neg b = false)
           fMinMax mx c a b = (if f32Nan a = true ∧ f32Nan b = true then canonNan else if f32Nan a = true then b
             else if f32Nan b = true then a else if decide below = mx then b else a, (nanRes [a, b]).2))
       ∧ (∀ op ∈ [fAdd, fSub, fMul], op ⟨rm, true⟩ a b = ftzOut (op c (ftzIn a) (ftzIn b)))
       ∧ fFma ⟨rm, true⟩ a b d = ftzOut (fFma c (ftzIn a) (ftzIn b) (ftzIn d))
       ∧ (∀ p, fCmp ⟨rm, true⟩ p a b = fCmp c p (ftzIn a) (ftzIn b)))
  ∧ (∀ (rm : Rm) (a : HWord) (n : Nat) (v : Int) (x : Word), let c : FpCtl := ⟨rm, false⟩
       let conv := fun (n : Nat) => f32ToInt c n a
       let hi : Int := 2 ^ (n - 1) - 1
       (n ∈ [8, 16, 32, 64] → (f32Nan a = true → conv n = (0, flCVN))
         ∧ (f32Nan a = false → ∃ r, RoundsInt rm (2 ^ 149) (f32Int a) r ∧ conv n =
           (if hi < r then (hi, flSAT ||| flNX) else if r < -hi - 1 then (-hi - 1, flSAT ||| flNX)
             else (r, flagIf (f32Int a != r * 2 ^ 149) flNX))))
       ∧ Rounds f32 rm 1 (decide (v < 0)) (v.natAbs * 2 ^ 149) (intToF32 c v).1.toNat (intToF32 c v).2
       ∧ f32ToInt ⟨rm, true⟩ n a = f32ToInt c n (ftzIn a) ∧ intToF32 ⟨rm, true⟩ v = intToF32 c v
       ∧ (∀ c, fcvtValue .f2l c x = (BitVec.ofInt 64 (f32ToInt c 64 (x.extractLsb' 0 32)).1, (f32ToInt c 64 (x.extractLsb' 0 32)).2)
         ∧ fcvtValue .f2w c x = (BitVec.ofInt 64 (f32ToInt c 32 (x.extractLsb' 0 32)).1, (f32ToInt c 32 (x.extractLsb' 0 32)).2)
         ∧ fcvtValue .l2f c x = ((intToF32 c x.toInt).1.zeroExtend 64, (intToF32 c x.toInt).2)
         ∧ fcvtValue .w2f c x = ((intToF32 c (x.extractLsb' 0 32).toInt).1.zeroExtend 64, (intToF32 c (x.extractLsb' 0 32).toInt).2)
         ∧ ∀ q ∈ [(VcvtOp.f2w, 32), (.f2s, 16), (.f2c, 8)], vcvtElem q.1 c a = (BitVec.ofInt 32 (f32ToInt c q.2 a).1, (f32ToInt c q.2 a).2)
         ∧ vcvtElem .w2f c a = intToF32 c a.toInt ∧ vcvtElem .s2f c a = intToF32 c (a.extractLsb' 0 16).toInt
         ∧ vcvtElem .c2f c a = intToF32 c (a.extractLsb' 0 8).toInt)
       ∧ ∀ q ∈ [(f16, 2 ^ 125, VcvtOp.f2h, VcvtOp.h2f), (b16, 2 ^ 16, .f2b, .b2f)], let f := q.1
         let wide := vcvtElem q.2.2.2 c a
         let k := a.toNat % 2 ^ 15
         (f32Nan a = true → vcvtElem q.2.2.1 c a = (BitVec.ofNat 32 f.nan, (nanRes [a]).2))
         ∧ (f32Inf a = true → vcvtElem q.2.2.1 c a = (BitVec.ofNat 32 (f.signed (f32Neg a) (f.inf - 1)), flSAT ||| flNX))
         ∧ (f32Fin a = true → ∃ k fl, Rounds f rm q.2.1 (f32Neg a) (f32Int a).natAbs k fl ∧ vcvtElem q.2.2.1 c a =
           if fl.getLsbD 2 then (BitVec.ofNat 32 (f.signed (f32Neg a) (f.inf - 1)), flSAT ||| flNX) else (BitVec.ofNat 32 k, fl))
         ∧ (k < f.inf → wide.2 = 0 ∧ f32Fin wide.1 = true ∧ f32Neg wide.1 = a.getLsbD 15
           ∧ f32Int wide.1 = (if a.getLsbD 15 then -1 else 1) * ((f.mag k * q.2.1 : Nat) : Int))
         ∧ (k = f.inf → wide = (BitVec.ofNat 32 (f32.signed (a.getLsbD 15) f32.inf), 0))
         ∧ (f.inf < k → wide = (canonNan, flagIf (decide (k < f.nan)) flNV)))
  ∧ (∀ (rm : Rm) (w : RecWidth) (r i : Nat) (vs : List HWord), let c : FpCtl := ⟨rm, false⟩
       let b := recBits w
       let top : Int := 2 ^ (b - 1) - 1
       let q := (BitVec.ofNat b (r / 2 ^ (8 + b * i))).toInt
       let nar := r % 256 = 255 ∨ q = -top - 1
       (nar → widen c w r i = ((canonNan, 0), true))
       ∧ (¬ nar → (widen c w r i).2 = false ∧ Rounds f32 rm 1 (decide (q < 0)) (q.natAbs * 2 ^ (r % 256 + 22))
         (widen c w r i).1.1.toNat (widen c w r i).1.2)
       ∧ (widen ⟨rm, true⟩ w r i).1 = ftzOut (widen c w r i).1
       ∧ narrow ⟨rm, true⟩ w vs = narrow c w (vs.map ftzIn)
       ∧ (vs.length = 32 → let o := narrow c w vs
         let s := o.1 % 256
         let fits := fun (n : Nat) => ∀ v ∈ vs, f32Nan v = false → f32Fin v = true ∧ (f32Int v).natAbs ≤ top.toNat * 2 ^ (n + 22)
         let code := fun (j : Nat) => (BitVec.ofNat b (o.1 / 2 ^ (8 + b * j))).toInt
         ((∀ v ∈ vs, f32Nan v = true) → s = 0)
         ∧ ((∃ v ∈ vs, f32Nan v = false) → s ≤ 254 ∧ (s < 254 → fits s) ∧ ∀ n < s, ¬ fits n)
         ∧ (∀ z ∈ vs.zipIdx, (f32Nan z.1 = true → code z.2 = -top - 1)
           ∧ (f32Inf z.1 = true → code z.2 = if f32Neg z.1 then -top else top)
           ∧ (f32Fin z.1 = true → ∃ q, RoundsInt .rne (2 ^ (s + 22)) (f32Int z.1) q ∧ code z.2 = max (-top) (min top q)))
         ∧ (o.2.getLsbD 0 = true ↔ ∃ v ∈ vs, f32Snan v = true)
         ∧ (o.2.getLsbD 6 = true ↔ ∃ v ∈ vs, f32Inf v = true ∨ (f32Fin v = true ∧
           ∃ q, RoundsInt .rne (2 ^ (s + 22)) (f32Int v) q ∧ (q < -top ∨ top < q)))
         ∧ (o.2.getLsbD 4 = true ↔ ∃ v ∈ vs, f32Fin v = true ∧ f32Int v % (2 ^ (s + 22) : Nat) ≠ 0)))
  ∧ (∀ (rm : Rm) (fn : Fin 8) (w : HWord) (k : Int), let c : FpCtl := ⟨rm, false⟩
       let f := fun (n : Fin 8) => special n c w
       let one : HWord := 0x3F800000
       let pinf : HWord := 0x7F800000
       let zero := f32Code w = 0
       let neg := f32Neg w
       let units := (f32Int w).natAbs
       let pow := fun (k : Int) => 2 ^ (k + 149).toNat
       (f32Nan w = true → f fn = nanRes [w])
       ∧ (zero → f 0 = (one, 0) ∧ f 1 = (0xFF800000, flDZ) ∧ f 2 = (one, 0) ∧ f 3 = (0xFF800000, flDZ)
         ∧ f 4 = (pinf ||| w, flDZ) ∧ f 5 = (pinf ||| w, flDZ) ∧ f 6 = (w, 0) ∧ f 7 = (0x3F000000, 0))
       ∧ (w = pinf → f 0 = (pinf, 0) ∧ f 1 = (pinf, 0) ∧ f 2 = (pinf, 0) ∧ f 3 = (pinf, 0) ∧ f 4 = (0, 0) ∧ f 5 = (0, 0)
         ∧ f 6 = (one, 0) ∧ f 7 = (one, 0))
       ∧ (w = 0xFF800000 → f 0 = (0, 0) ∧ f 2 = (0, 0) ∧ f 4 = (0x80000000, 0) ∧ f 6 = (0xBF800000, 0) ∧ f 7 = (0, 0))
       ∧ (neg = true → f32Nan w = false → ¬ zero → ∀ n ∈ [(1 : Fin 8), 3, 5], f n = (canonNan, flNV))
       ∧ (f32Int w = k * 2 ^ 149 → -149 ≤ k → k ≤ 127 → ∃ v, f 0 = (v, flagIf (decide (k < -126)) flUF)
         ∧ f32Int v = pow k)
       ∧ (f32Int w = pow k → -149 ≤ k → k ≤ 127 → (∃ v, f 1 = (v, 0) ∧ f32Int v = k * 2 ^ 149)
         ∧ (k = 0 → f 3 = (0, 0))
         ∧ (k % 2 = 0 → ∃ v, f 5 = (v, 0) ∧ f32Int v = pow (-(k / 2))))
       ∧ (units = pow k → -127 ≤ k → k ≤ 126 → ∃ v, f 4 = (v, 0) ∧ f32Neg v = neg ∧ (f32Int v).natAbs = pow (-k))
       ∧ (f32Nan w = false → special 6 c (w ^^^ 0x80000000) = ((f 6).1 ^^^ 0x80000000, (f 6).2))
       ∧ special fn c w = special fn ⟨.rne, false⟩ w
       ∧ special fn ⟨rm, true⟩ w = (let r := special fn c (ftzIn w)
         if f32.isSub r.1.toNat then (r.1 &&& 0x80000000, r.2 ||| flUF) else r)
       ∧ (f fn).2 &&& flNX = 0)

/-- A vector result lands in the physical register fixed at issue: the lanes of its mask change, the others stand, and so
does every other register of the pool; its flags are ORed into FPCTL and STKY (R14, R31, R144 to R146). -/
def Obligations.VectorResultLands : Prop :=
  ∀ (s : State) (t : TileNo) (c : CtxNo) (f : Flight) (d : VReg) (pv : Fin 56),
    (s.ctxAt t c).flight = [f] → f.due ≤ (s.tile t).cycle → f.dest = .v d pv →
    ∃ s' : State, exec (.resultClock t c) s = .next s'
      ∧ (∀ e < 1024, velem ((s'.tile t).pool[pv]).val e =
          if f.mask.getLsbD e then velem f.vec e else velem ((s.tile t).pool[pv]).val e)
      ∧ (∀ q, q ≠ pv → (s'.tile t).pool[q] = (s.tile t).pool[q])
      ∧ (s'.ctxAt t c).regs.fpctl = (s.ctxAt t c).regs.fpctl ||| (f.ffl.zeroExtend 64 <<< 4)
      ∧ (s'.ctxAt t c).regs.stky = (s.ctxAt t c).regs.stky ||| (if f.mnar then 1 else 0)
      ∧ (s'.ctxAt t c).flight = [] ∧ SameMemory s s'

/-- The frame of the vector instructions: memory, units, every X, A, mask, loop, special and exception register, the other
contexts and the agenda stand; of the acting context the results in flight and the map states of vector names change. An
undo log that is full first exposes the segment and lets out what the context holds (R320): here it holds nothing, or is
exposed already. -/
def Obligations.VectorFrame : Prop :=
  ∀ (s s' : State) (t : TileNo) (c : CtxNo) (i : Instr), s.cur = .hw t c → isVector i = true → s.ready i = true →
    s.lets → (issueOf i s).isTrap = false → exec i s = .next s' →
    SameMemory s s' ∧ SameRegsButNames s s' ∧ SameUnits s s' ∧ SameOthers s s' ∧ s'.agenda = s.agenda

/-! ### The matrix engine (R48 to R53, R164 to R177) -/

/-- An array operation of an implemented combination that finds its panels, their types, the array and its tile free is
admitted: the panels leave the streams, TO rises, the tile is busy, and the result comes after the pipeline and the clocks
of its K-steps; a combination that is not implemented, and panels of another type, trap, and too few panels block (R166,
R171 to R174). -/
def Obligations.ArrayOperations : Prop :=
  ∀ (s : State) (t : TileNo) (c : CtxNo) (d : RtReg) (n : BitVec 5) (q : BitVec 4) (fa fb : MType) (acc : Bool),
    s.cur = .hw t c → let x := s.cx
    ∀ z ∈ [(Instr.mma d n fa fb acc, 0x70, n.toNat + 1, n.toNat + 1, 0, 10),
        (.mmaf d n fa fb acc, 0x71, n.toNat + 1, n.toNat + 1, 0, 14),
        (.mmas d q fa fb acc, 0x72, q.toNat + 1, 2 * (q.toNat + 1), q.toNat + 1, 10)],
      let (i, opc, nb, na, nq, lat) := z
      let has := na ≤ x.af.length ∧ nb ≤ x.bf.length ∧ nq ≤ x.mq.length
      let typed := (∀ p ∈ x.af.take na, p.ty = fa) ∧ ∀ p ∈ x.bf.take nb, p.ty = fb
      let bad := comboClocks opc fa fb = none ∨ (opc = 0x71 ∧ x.rts[d].xmode = true)
      (bad → exec i s = .next (s.trapCur .illegalCombination))
      ∧ (¬ bad → ¬ has → exec i s = .next (s.blocked i))
      ∧ (¬ bad → has → ¬ typed → exec i s = .next (s.trapCur .streamType))
      ∧ ∀ k, ¬ bad → comboClocks opc fa fb = some k → has → typed → (s.tile t).arrayFree ≤ (s.tile t).cycle →
        (x.rts[d].busy = true → chains x.rts[d] opc fa fb acc (s.tile t).arrayOrder = true) → x.regs.tok < 15 →
        (∀ p ∈ x.af.take na ++ x.bf.take nb, p.poison = false) → (∀ p ∈ x.mq.take nq, p.poison = false) →
        ∃ s', exec i s = .next s' ∧ s'.cx.regs.tok = x.regs.tok + 1 ∧ (s'.cx.rts[d]).busy = true
          ∧ s'.cx.af = x.af.drop na ∧ s'.cx.bf = x.bf.drop nb ∧ s'.cx.mq = x.mq.drop nq
          ∧ (s'.tile t).arrayFree = (s.tile t).cycle + k * nb
          ∧ s'.cx.mops = x.mops ++ [⟨(s.tile t).cycle + lat + k * nb, (s.tile t).cycle, d,
            (encode (s.flagged i)).headD 0, .array opc nb fa fb acc, x.af.take na, x.bf.take nb, x.mq.take nq⟩]

/-- MZERO sets a tile's mode and exponent and MPUT its contents, two clocks later; MSKIP drops entries that are there
and of the type it names, MDRAIN every entry; MSTAT reads a tile's state; VRDT and VACC read a tile that is not
busy, element by element under the top mask, and raise Schedule Violation where it is (R53, R154, R155, R175 to
R181). -/
def Obligations.TileOperations : Prop :=
  (∀ (s : State) (t : TileNo) (c : CtxNo) (d : RtReg) (te : Option (BitVec 9)) (a : VUse) (n : BitVec 5)
     (sa sb : Option MType) (sq ka kb kq : Bool) (x : XReg), s.cur = .hw t c →
     let y := s.cx
     let r := y.rts[d]
     let k := n.toNat + 1
     let has := (sa.isSome = true → k ≤ y.af.length) ∧ (sb.isSome = true → k ≤ y.bf.length) ∧ (sq = true → k ≤ y.mq.length)
     let typed := (∀ p ∈ y.af.take k, ∀ ty, sa = some ty → p.ty = ty) ∧ ∀ p ∈ y.bf.take k, ∀ ty, sb = some ty → p.ty = ty
     (r.busy = false → y.regs.tok < 15 → ∃ s', exec (.mzero d te) s = .next s' ∧ s'.cx.regs.tok = y.regs.tok + 1
       ∧ s'.cx.mops = y.mops ++ [⟨(s.tile t).cycle + 2, (s.tile t).cycle, d, 0, .zero, [], [], []⟩]
       ∧ (s'.cx.rts[d]).busy = true ∧ (s'.cx.rts[d]).xmode = te.isSome ∧ (s'.cx.rts[d]).te = te.getD 0)
     ∧ (s.ready (.mput d a) = true → r.busy = false → y.regs.tok < 15 → ∃ s', exec (.mput d a) s = .next s'
       ∧ s'.cx.mops = y.mops ++ [⟨(s.tile t).cycle + 2, (s.tile t).cycle, d, 0, .put (s.v a.reg), [], [], []⟩]
       ∧ s'.cx.regs.tok = y.regs.tok + 1 ∧ (s'.cx.rts[d]).busy = true)
     ∧ (r.busy = true → exec (.mzero d te) s = .next s ∧ exec (.mput d a) s = .next s)
     ∧ (has → typed → exec (.mskip n sa sb sq) s = .next (s.onCx fun y => { y with
         af := if sa.isSome then y.af.drop k else y.af, bf := if sb.isSome then y.bf.drop k else y.bf,
         mq := if sq then y.mq.drop k else y.mq }))
     ∧ (has → ¬ typed → exec (.mskip n sa sb sq) s = .next (s.trapCur .streamType))
     ∧ (¬ has → exec (.mskip n sa sb sq) s = .next (s.blocked (.mskip n sa sb sq)))
     ∧ exec (.mdrain ka kb kq) s = .next (s.onCx fun y => { y with
         af := if ka then [] else y.af, bf := if kb then [] else y.bf, mq := if kq then [] else y.mq })
     ∧ (s.ready (.mstat x d) = true → exec (.mstat x d) s = .next (s.flyX 1 x (BitVec.ofNat 64
         (r.busy.toNat * 2 ^ 17 + r.xmode.toNat * 2 ^ 16 + if r.xmode then r.te.toNat else 0)))))
  ∧ (∀ (s : State) (d : VReg) (t : RtReg),
       let r := s.cx.rts[t]
       (r.busy = false →
         s.vecAnswers (.vrdt d t) d [] 6 s.top (lanes s.top (rtRead s.fp r))
         ∧ s.vecAnswers (.vacc d t) d [] 6 s.top (lanes s.top fun e => rtAdd s.fp r (velem (s.v d) e) e))
       ∧ (r.busy = true → s.vecFree = true →
         (s.ready (.vrdt d t) = true → exec (.vrdt d t) s = .next (s.trapCur .scheduleViolation))
         ∧ (s.ready (.vacc d t) = true → exec (.vacc d t) s = .next (s.trapCur .scheduleViolation))))

/-- At its result clock the last operation of a context writes its tile, which is busy no longer, lowers TO and ORs MNAR
and ALIGN into STKY; before it nothing happens (R172, R174). What it writes: zeros, the register MPUT read, or at element
64i + j what the steps of row i and column j make of the old element, a zero without ACC. In F mode runs of steps of one
combined exponent, at most 16 or of half-steps 32, are added with one rounding each, and a NaR that feeds the element makes
it a NaN with MNAR; in X mode every step within seven of TE adds its sum to the integer, the others are dropped with ALIGN,
and a NaR of a kept step makes the element NaR with MNAR; MMAF rounds each step's sum of products once and adds it (R49 to
R53, R169, R170, R174 to R176). -/
def Obligations.MatrixResultLands : Prop :=
  (∀ (s : State) (t : TileNo) (c : CtxNo) (m : MatOp), (s.ctxAt t c).mops = [m] →
    let x := s.ctxAt t c
    let v := m.result x.rts[m.rt]
    ((s.tile t).cycle < m.due → exec (.matrixResult t c) s = .next s)
    ∧ (m.due ≤ (s.tile t).cycle → ∃ s', exec (.matrixResult t c) s = .next s'
      ∧ ((s'.ctxAt t c).rts[m.rt]).val = v.1 ∧ ((s'.ctxAt t c).rts[m.rt]).busy = false
      ∧ (∀ r, r ≠ m.rt → (s'.ctxAt t c).rts[r] = x.rts[r]) ∧ (s'.ctxAt t c).mops = []
      ∧ (s'.ctxAt t c).regs.tok = x.regs.tok - 1
      ∧ (s'.ctxAt t c).regs.stky = x.regs.stky ||| ((if v.2.1 then 1 else 0) ||| (if v.2.2 then 2 else 0))
      ∧ SameMemory s s' ∧ SameOthers { s with cur := .hw t c } s'))
  ∧ (∀ (m : MatOp) (r : RTile), (m.kind = .zero → m.result r = (0, false, false))
      ∧ (∀ v, m.kind = .put v → m.result r = (v, false, false))
      ∧ ∀ opc n fa fb acc, m.kind = .array opc n fa fb acc →
        let el := arrayElem r opc fa fb acc m.af m.bf m.mq
        (∀ e < 1024, velem (m.result r).1 e = (el e).1) ∧ ((m.result r).2.1 = true ↔ ∃ e < 1024, (el e).2.1 = true)
        ∧ ((m.result r).2.2 = true ↔ ∃ e < 1024, (el e).2.2 = true))
  ∧ (∀ (r : RTile) (fa fb : MType) (wa wb : RecWidth) (acc : Bool) (af bf : List Panel) (mq : List MetaEntry) (i j : Nat),
      MType.width fa = some wa → MType.width fb = some wb → i < 16 → j < 64 →
      let c := if acc then velem r.val (64 * i + j) else 0
      let a := fun (t : Nat) => ((af[t]?.map fun (p : Panel) => p.recAt (recBytes wa) i).getD 0)
      let b0 := fun (t : Nat) => ((bf[t]?.map fun (p : Panel) => p.recAt (recBytes wb) j).getD 0)
      let w := fun (t : Nat) => ((mq[t]?.map fun (q : MetaEntry) => q.data.toNat / 2 ^ (32 * j)).getD 0)
      ∀ sparse : Bool,
        let opc := if sparse then 0x72 else 0x70
        let cut := if sparse then 32 else 16
        let k := if sparse then 2 * bf.length else bf.length
        let b := fun t => if sparse then b0 (t / 2) else b0 t
        let ps := fun (t : Nat) => if sparse then keptPairs (w (t / 2)) (t % 2) else (List.range 32).map fun m => (m, m)
        let o := arrayElem r opc fa fb acc af bf mq (64 * i + j)
        let e := fun t => a t % 256 + b t % 256
        let sum := fun t => ((ps t).map fun p => elemQ wa (a t) p.1 * elemQ wb (b t) p.2).sum
        let nar := fun t => ∃ p ∈ ps t, elemNar wa (a t) p.1 ∨ elemNar wb (b t) p.2
        let dropped := fun t => a t % 256 ≠ 255 ∧ b t % 256 ≠ 255 ∧ (e t < r.te.toNat ∨ r.te.toNat + 7 < e t)
        af.length = k → (sparse = true → mq.length = bf.length) →
        (r.xmode = false → (∃ t < k, nar t) → o = (canonNan, true, false))
        ∧ (r.xmode = false → (∀ t < k, ¬ nar t) → ∀ pos : Nat → Nat, pos 0 = 0 →
          (∀ t, pos (t + 1) = if e (t + 1) = e t ∧ pos t + 1 < cut then pos t + 1 else 0) → ∃ el : Nat → HWord, el 0 = c
            ∧ (∀ t < k, if t + 1 = k ∨ pos (t + 1) = 0
              then RunAdded (el t) (e t) ((List.range (pos t + 1)).map fun u => sum (t - u)).sum (el (t + 1))
              else el (t + 1) = el t)
            ∧ o = (el k, false, false))
        ∧ (r.xmode = true → (o.2.2 = true ↔ ∃ t < k, dropped t) ∧ (o.2.1 = true ↔ ∃ t < k, ¬ dropped t ∧ nar t)
          ∧ ((∀ t < k, dropped t) → o.1 = c)
          ∧ ((∃ t < k, ¬ dropped t) → ((∃ t < k, ¬ dropped t ∧ nar t) ∨ resValid c = false) → o.1 = resNar)
          ∧ (resValid c = true → (∀ t < k, ¬ dropped t → ¬ nar t) → o.1 = toRes (fromRes c
            + ((List.range k).map fun t => if e t < r.te.toNat ∨ r.te.toNat + 7 < e t then 0
              else sum t * 2 ^ (e t - r.te.toNat)).sum))))
  ∧ ∀ (r : RTile) (acc : Bool) (af bf : List Panel) (mq : List MetaEntry) (i j : Nat), i < 16 → j < 64 →
      af.length = bf.length → ∀ z ∈ [(MType.fp16, f16, 2 ^ 101, 1), (.bf16, b16, 1, 2 ^ 117)],
        ∃ (el sm : Nat → HWord), el 0 = (if acc then velem r.val (64 * i + j) else 0)
          ∧ (∀ t, (h : t < af.length) → (h' : t < bf.length) → el (t + 1) = (fAdd ⟨.rne, false⟩ (el t) (sm t)).1
            ∧ ProductsRounded z.2.1 z.2.2.1 z.2.2.2 ((af[t]).recAt 64 i) ((bf[t]).recAt 64 j) (sm t))
          ∧ arrayElem r 0x71 z.1 z.1 acc af bf mq (64 * i + j) = (el af.length, false, false)

/-- Residue triples stand for integers exactly: reading back what was written gives the integer wrapped into
[-8,388,480, 8,388,480), sums of triples are the triples of sums, and every triple written is valid (R48, R51, R52). -/
def Obligations.ExactTriples : Prop :=
  ∀ x y : Int, fromRes (toRes x) = (x + 8388480) % 16776960 - 8388480
    ∧ resAdd (toRes x) (toRes y) = toRes (x + y) ∧ resValid (toRes x) = true

/-- The order in which K-steps reach an X-mode element changes neither its triple nor MNAR nor ALIGN, whatever the steps
hold (R51, R52). -/
def Obligations.OrderOfKSteps : Prop :=
  ∀ (te : Nat) (c : HWord) (ks ls : List KStep), ks.Perm ls → xElem te c ks = xElem te c ls

/-! ### The P slot (R183 to R201) -/

/-- The checks of every form N access, in their order: the bay admits the context, SYNC as the access needs it,
alignment, every byte in the bay's visible part, and last a state that admits the access, without which it blocks (R183,
R185, R187). The order is the model's reading (log 51). -/
def Obligations.BayChecks : Prop :=
  ∀ (s : State) (l : PLoc) (v ix : VUse) (d : VReg) (x y : XReg) (row nr : BitVec 4) (str : BitVec 8) (sz : Size)
    (sx force : Bool) (op : PatomOp),
    let rows : Ranges := (List.range 16).map fun r => (64 * str.toNat * r, 256)
    let part : Ranges := [(0, 256 * (nr.toNat + 1))]
    let at_ := ((List.range 1024).filter fun e => s.cx.regs.top.getLsbD e).map fun e =>
      (4 * (velem (s.v ix.reg) e).toNat, 4)
    ∀ z ∈ [(Instr.pld d l, BayUse.load, 4, [(0, 4096)]), (.pldb d l row nr, .load, 4, part),
        (.plds d l str, .load, 4, rows), (.pldx d l ix, .load, 4, at_),
        (.pldsc sx sz x l, .load, Size.bytes sz, [(0, Size.bytes sz)]), (.pst v l, .store, 4, [(0, 4096)]),
        (.pstb v l row nr, .store, 4, part), (.psts v l str, .store, 4, rows), (.pstx v l ix, .store, 4, at_),
        (.pstm v l, .store, 4, [(0, 4096)]), (.pstsc sz x l, .store, Size.bytes sz, [(0, Size.bytes sz)]),
        (.patom op x l y, .atomic, 8, [(0, 8)]), (.binit x force l, .barrier, 16, [(0, 16)]),
        (.barv x l, .barrier, 16, [(0, 16)]), (.bwait x l, .barrierRead, 16, [(0, 16)])],
      let (i, u, align, rel) := z
      let b := s.bay l.bay
      let ea := s.pea l
      let mine := b.admits s.curCtx = true
      let kind := ((u = .barrier ∨ u = .barrierRead) → b.sync = true) ∧ (u = .store → b.sync = false)
      let fits := ∀ q ∈ rel, ea + q.1 + q.2 ≤ b.len
      s.ready i = true →
      (¬ mine → exec i s = .next (s.trapCur .bayAccess))
      ∧ (mine → (u = .barrier ∨ u = .barrierRead) → b.sync = false → exec i s = .next (s.trapCur .illegalOperand))
      ∧ (mine → u = .store → b.sync = true → exec i s = .next (s.trapCur .syncStore))
      ∧ (mine → kind → ea % align ≠ 0 → exec i s = .next (s.trapCur .misaligned))
      ∧ (mine → kind → ea % align = 0 → ¬ fits → exec i s = .next (s.trapCur .bayBounds))
      ∧ (mine → kind → ea % align = 0 → fits → u.admits b.st = false → exec i s = .next (s.blocked i))

/-- The vector loads: six clocks later every element of the mask is the little-endian word at its place, the address
register steps, and poison among the bytes poisons the task (R187, R196, R323). -/
def Obligations.ScratchpadLoads : Prop :=
  ∀ (s r : State) (d : VReg) (l : PLoc) (row nr : BitVec 4) (str : BitVec 8) (ix : VUse) (base : Nat) (pv : Fin 56),
    let ea := s.pea l
    let word := fun (o : Nat) => BitVec.ofNat 32 (Mem.readNat (s.tile s.curTile).sp (base + ea + o) 4)
    let idx := fun (e : Nat) => 4 * (velem (s.v ix.reg) e).toNat
    let lands := fun (i : Instr) (rel : Ranges) (reads : List VUse) (m : Mask) (place : Nat → Nat) =>
      s.ready i = true → s.bayAccess l.bay .load ea 4 (shift ea rel) = .ok base →
      ((s.tile s.curTile).spBad (shift (base + ea) rel) = true →
        exec i s = .next ((s.readRanges (shift (base + ea) rel)).poisonTask s.curTile s.curCtx))
      ∧ ((s.tile s.curTile).spBad (shift (base + ea) rel) = false →
        (s.readRanges (shift (base + ea) rel)).claimV s d = some (r, pv) →
        ∃ v, exec i s = .next ((reads.foldl (fun r u => r.used u (some d) 6)
            (r.fly 6 (.v d pv) 0 v m 0 false)).stepA s l.ps l.ai)
          ∧ ∀ e < 1024, m.getLsbD e = true → velem v e = word (place e))
    lands (.pld d l) [(0, 4096)] [] everyLane (fun e => 4 * e)
    ∧ (row.toNat + nr.toNat < 16 → lands (.pldb d l row nr) [(0, 256 * (nr.toNat + 1))] [] (rowMask row.toNat (nr.toNat + 1))
        (fun e => 4 * e - 256 * row.toNat))
    ∧ lands (.plds d l str) ((List.range 16).map fun r => (64 * str.toNat * r, 256)) [] everyLane
        (fun e => 64 * str.toNat * (e / 64) + 4 * (e % 64))
    ∧ lands (.pldx d l ix) (((List.range 1024).filter fun e => s.cx.regs.top.getLsbD e).map fun e => (idx e, 4)) [ix]
        s.cx.regs.top idx

/-- The stores, at the address their operand forms: each byte of their pieces in the order written, every other byte of
every scratchpad as before, the bay READY, the address register stepped; and where the context holds nothing or is
exposed, memory, banks, caches, the other contexts and every other register as before (R183, R187, R188, R196, R197).
What a full undo log lets out is the model's choice (log 20). -/
def Obligations.ScratchpadStores : Prop :=
  ∀ (s : State) (t : TileNo) (c : CtxNo) (v ix : VUse) (l : PLoc) (row nr : BitVec 4) (str : BitVec 8) (sz : Size)
    (x : XReg) (base : Nat), s.cur = .hw t c → Mem.wf (s.tile t).sp = true →
    let o := base + s.pea l
    let byte := fun (k : Nat) => (s.v v.reg).extractLsb' (8 * k) 8
    let img := fun (k n : Nat) => (List.range n).map fun i => byte (k + i)
    let on := (List.range 1024).filter fun e => s.cx.regs.top.getLsbD e
    let idx := fun (e : Nat) => 4 * (velem (s.v ix.reg) e).toNat
    let puts := fun (i : Instr) (align : Nat) (rel : Ranges) (ps : List (Nat × List Byte)) =>
      s.ready i = true → s.bayAccess l.bay .store (s.pea l) align (shift (s.pea l) rel) = .ok base →
      ∃ s', exec i s = .next s'
        ∧ (∀ a, Mem.read (s'.tile t).sp a = (lastByte (ps.map fun q => (o + q.1, q.2)) a).getD (Mem.read (s.tile t).sp a))
        ∧ (∀ u a, u ≠ t → Mem.read (s'.tile u).sp a = Mem.read (s.tile u).sp a)
        ∧ ((s'.tile t).bay l.bay).st = .ready
        ∧ s'.cx.regs.as[l.ai] = (if l.ps then s.a l.ai + (s.cx.regs.asteps[l.ai]).signExtend 64 else s.a l.ai)
        ∧ (s.lets → SameHomes s s' ∧ SameStores s s' ∧ (∀ u, (s'.tile u).l1 = (s.tile u).l1)
          ∧ SameUnits s s' ∧ SameOthers s s' ∧ s'.agenda = s.agenda
          ∧ { s'.cx.regs with vmap := s.cx.regs.vmap, as := s.cx.regs.as } = s.cx.regs)
    puts (.pst v l) 4 [(0, 4096)] [(0, img 0 4096)]
    ∧ (row.toNat + nr.toNat < 16 → puts (.pstb v l row nr) 4 [(0, 256 * (nr.toNat + 1))]
        [(0, img (256 * row.toNat) (256 * (nr.toNat + 1)))])
    ∧ puts (.psts v l str) 4 ((List.range 16).map fun r => (64 * str.toNat * r, 256))
        ((List.range 16).map fun r => (64 * str.toNat * r, img (256 * r) 256))
    ∧ puts (.pstx v l ix) 4 (on.map fun e => (idx e, 4)) (on.map fun e => (idx e, img (4 * e) 4))
    ∧ puts (.pstm v l) 4 [(0, 4096)] (on.map fun e => (4 * e, img (4 * e) 4))
    ∧ puts (.pstsc sz x l) (Size.bytes sz) [(0, Size.bytes sz)]
        [(0, (List.range (Size.bytes sz)).map fun i => (s.x x).extractLsb' (8 * i) 8)]

/-- The scalar load extends what it reads, and PATOM writes its operation's value and returns the old one, six clocks later
(R197, R198). -/
def Obligations.ScratchpadScalars : Prop :=
  ∀ (s : State) (d x : XReg) (l : PLoc) (sx : Bool) (sz : Size) (op : PatomOp) (base : Nat),
    let o := base + s.pea l
    let n := Size.bytes sz
    let w := BitVec.ofNat (8 * n) (Mem.readNat (s.tile s.curTile).sp o n)
    let old := BitVec.ofNat 64 (Mem.readNat (s.tile s.curTile).sp o 8)
    let b := s.x x
    let new : Word := match op with
      | .add => old + b | .and => old &&& b | .or => old ||| b | .xor => old ^^^ b
      | .smin => if old.toInt ≤ b.toInt then old else b | .smax => if b.toInt ≤ old.toInt then old else b
      | .umax => if b.toNat ≤ old.toNat then old else b | .swap => b
    (s.ready (.pldsc sx sz d l) = true → s.bayAccess l.bay .load (s.pea l) n [(s.pea l, n)] = .ok base →
      (s.tile s.curTile).spBad [(o, n)] = false →
      exec (.pldsc sx sz d l) s =
        .next (((s.readRanges [(o, n)]).flyX 6 d (if sx then w.signExtend 64 else w.zeroExtend 64)).stepA s l.ps l.ai))
    ∧ (s.ready (.patom op d l x) = true → s.bayAccess l.bay .atomic (s.pea l) 8 [(s.pea l, 8)] = .ok base →
      (s.tile s.curTile).spBad [(o, 8)] = false →
      exec (.patom op d l x) s = .next ((((s.readRanges [(o, 8)]).pPut o (bytesOfNat 8 new.toNat)).flyX 6 d old).stepA
        s l.ps l.ai))

/-- BINIT refuses a malformed image, running transfers and, unless forced, waiters by a status, and else initialises the
barrier with its generation advanced and abandons its waiters with its segment; BARV counts an arrival of the right
generation down, sends the completion it causes with its segment, and raises Barrier Generation for any other; BWAIT
reads; poison poisons the task. Each acts behind what its context has under way at the barrier (R190, R192 to R195,
R300, R318, R323). How the earlier references are settled is the model's reading (log 81), and that BINIT changes no entry
of the bay table its choice (log 82). -/
def Obligations.LocalBarriers : Prop :=
  ∀ (s : State) (x : XReg) (force : Bool) (l : PLoc) (base : Nat),
    let o := base + s.pea l
    let b := (s.settleRefs o).bar s.curTile o
    let read := (s.readRanges [(o, 16)]).settleRefs o
    let step := fun (r : State) => r.stepA s l.ps l.ai
    let sends := fun (op : BarOp) (ref : Word) => Instr.barrierReferenceStep s.curTile s.curCtx s.tid op ref
    let ok := fun (u : BayUse) => s.bayAccess l.bay u (s.pea l) 16 [(s.pea l, 16)] = .ok base
    let clean := (s.tile s.curTile).spBad [(o, 16)] = false
    let bad := (s.x x).extractLsb' 0 14 = 0 ∨ (s.x x).extractLsb' 15 49 ≠ 0
    let running := barIn b ≠ 0 ∨ barOut b ≠ 0
    let waited := barWcnt b ≠ 0 ∧ force = false
    let tells := fun (w : Nat) => exec (.binit x force l) s = .next (step (read.flyX 6 x (BitVec.ofNat 64 w)))
    let exp := ((s.x x).extractLsb' 0 14).toNat
    let image : BitVec 128 :=
      BitVec.ofNat 128 (exp * 2 ^ 22 + exp * 2 ^ 8 + ((s.x x).getLsbD 14).toNat * 2 ^ 4 + (barGen b + 1) % 16)
    let set := (read.pPut o (bytesOfNat 16 image.toNat)).tookTurn o
    let told := fun (r : State) => step (r.flyX 6 x (BitVec.ofNat 64 (barWcnt b * 2 ^ 16)))
    let refused := barSpent b = true ∨ ((s.x x).extractLsb' 0 4).toNat ≠ barGen b ∨ barPend b = 0
    let b1 := barSet b 22 14 (barPend b - 1)
    let put := step ((((s.settleRefs o).readRanges [(o, 16)]).pPut o (bytesOfNat 16 b1.toNat)).tookTurn o)
    let ref := BitVec.ofNat 64 (s.curTile.val * 2 ^ 29 + l.bay.val * 2 ^ 23 + s.pea l)
    (s.ready (.binit x force l) = true → ok .barrier → clean →
      (bad → tells 2) ∧ (¬ bad → running → tells 3)
      ∧ (¬ bad → ¬ running → waited → tells (barWcnt b * 2 ^ 16 + 1))
      ∧ (¬ bad → ¬ running → barWcnt b = 0 → exec (.binit x force l) s = .next (told set))
      ∧ (¬ bad → ¬ running → barWcnt b ≠ 0 → force = true → exec (.binit x force l) s =
        .next (told (set.holdStep 1 (sends (.abandon (barWhead b) (barWcnt b)) 0)))))
    ∧ (s.ready (.barv x l) = true → ok .barrier → clean →
      (refused → exec (.barv x l) s = .next (s.trapCur .barrierGen))
      ∧ (¬ refused → barDone b1 = false → exec (.barv x l) s = .next put)
      ∧ (¬ refused → barDone b1 = true → exec (.barv x l) s = .next (put.holdStep 1 (sends (.lower false false) ref))))
    ∧ (s.ready (.bwait x l) = true → ok .barrierRead → clean → exec (.bwait x l) s =
      .next (step (read.flyX 6 x (BitVec.ofNat 64 (barWcnt b * 2 ^ 52 + (b.extractLsb' 0 52).toNat)))))
    ∧ (¬ clean → ∀ z ∈ [(Instr.binit x force l, BayUse.barrier), (.barv x l, .barrier), (.bwait x l, .barrierRead)],
      s.ready z.1 = true → ok z.2 →
        exec z.1 s = .next ((s.readRanges [(o, 16)]).poisonTask s.curTile s.curCtx))

/-- The reference forms count in CP and send one step to the barrier's tile, BARV.R with its segment, the others with
the segment exposed. A step whose clock at the barrier has come does there what the local form does, one whose clock
has not is put off to it, poison poisons the task, and a reference that names no barrier the context may use is a
deferred fault. A phase that is done advances the generation, empties the list of waiters, and reloads the pending
count, or marks a one-shot barrier SPENT; a phase that is not done stands (R185, R189, R191 to R195, R198, R323). That
poison poisons the task that issued the step is the model's reading (log 78), as is when a step's clock at the barrier has
come (log 81). -/
def Obligations.ReferenceForms : Prop :=
  (∀ (s : State) (op : PatomOp) (d rf x : XReg) (t u : TileNo) (c : CtxNo) (tid : Nat) (p : PartNo) (n : BayNo) (o : Nat)
     (g : BitVec 4) (w r : Word),
     let send := fun (o : BarOp) => Instr.barrierReferenceStep s.curTile s.curCtx s.tid o (s.x rf)
     let at_ := fun (o : BarOp) => Instr.barrierReferenceStep t c tid o r
     let ops := [BarOp.arrive g, .wait d, .atom op d w]
     (s.cx.regs.cp < 31 →
       (s.ready (.barvR x rf) = true → exec (.barvR x rf) s =
         .next (s.cpUp.holdStep 1 (send (.arrive ((s.x x).extractLsb' 0 4)))))
       ∧ (s.ready (.bwaitR d rf) = true → exec (.bwaitR d rf) s = .next (s.cpUp.exposeCur.holdStep 0 (send (.wait d))))
       ∧ (s.ready (.patomR op d rf x) = true → exec (.patomR op d rf x) s =
         .next (s.cpUp.exposeCur.holdStep 0 (send (.atom op d (s.x x))))))
     ∧ (∀ k ∈ ops, s.now < (s.refTurn t c k r).1 → exec (at_ k) s =
       .next ((s.refTurn t c k r).2.postpone (s.refTurn t c k r).1 (orderKey t c) (at_ k)))
     ∧ (∀ s1, s1.partOf t = some p → s1.barRefBy p t c r = some (u, n, o) →
       let turn := fun (k : BarOp) => (s.refTurn t c k r).1 ≤ s.now ∧ (s.refTurn t c k r).2 = s1
       let s0 := s1.readExposes u (if u = t then some c else none) o 16
       let b := s0.bar u o
       let refused := barSpent b = true ∨ g.toNat ≠ barGen b ∨ barPend b = 0
       let clean := fun (n : Nat) => (s1.tile u).spBad [(o, n)] = false
       (turn (.arrive g) → clean 16 → ¬ refused → exec (at_ (.arrive g)) s = .next
         ((((s0.remoteBar u o (barSet b 22 14 (barPend b - 1))).completeBar p u o).onTile u
           fun x => x.markNewer o 16).dropCp t c tid))
       ∧ (turn (.arrive g) → clean 16 → refused → exec (at_ (.arrive g)) s = .next
         ((s0.arrive t c tid ⟨3, 0x8B, 15, r⟩).dropCp t c tid))
       ∧ (turn (.wait d) → clean 16 → exec (at_ (.wait d)) s = .next ((s0.returnX t c tid d
           (BitVec.ofNat 64 (barWcnt b * 2 ^ 52 + (b.extractLsb' 0 52).toNat))).dropCp t c tid))
       ∧ (turn (.atom op d w) → clean 8 →
         let old := BitVec.ofNat 64 (Mem.readNat (s0.tile u).sp o 8)
         exec (at_ (.atom op d w)) s = .next (((s0.engineWriteSp u o
           (bytesOfNat 8 (PatomOp.apply op old w).toNat)).returnX t c tid d old).dropCp t c tid))
       ∧ ∀ z ∈ [(BarOp.arrive g, 16), (.wait d, 16), (.atom op d w, 8)], turn z.1 → ¬ clean z.2 →
         exec (at_ z.1) s = .next (s0.poisonTid t c tid p))
     ∧ (s.partOf t = some p → s.barRefBy p t c r = none →
       exec (at_ (.arrive g)) s = .next ((s.arrive t c tid ⟨4, 0x8B, 15, r⟩).dropCp t c tid)
       ∧ exec (at_ (.wait d)) s = .next ((s.arrive t c tid ⟨4, 0x8C, 15, r⟩).dropCp t c tid)
       ∧ exec (at_ (.atom op d w)) s = .next ((s.arrive t c tid ⟨4, 0x89, 15, r⟩).dropCp t c tid)))
  ∧ (∀ (s : State) (p : PartNo) (t : TileNo) (o : Nat),
       let b := s.bar t o
       let b1 := (s.completeBar p t o).bar t o
       (barDone b = false → s.completeBar p t o = s)
       ∧ (barDone b = true → barGen b1 = (barGen b + 1) % 16 ∧ barWcnt b1 = 0 ∧ barWhead b1 = 0 ∧ barExp b1 = barExp b
         ∧ barIn b1 = 0 ∧ barOut b1 = 0 ∧ barOneshot b1 = barOneshot b ∧ barSpent b1 = barOneshot b
         ∧ barPend b1 = if barOneshot b then 0 else barExp b))

/-- The bay table: BAYCFG is of S alone, refuses by the lowest code that applies, and else writes the entry, READY and
zeroed for a SYNC bay and EMPTY for any other; BAYST reads an entry it may see; BAYREL empties a READY bay it may use
and that no engine is at work on, and changes no byte outside it (R184, R199 to R201). Which bits of a register image
count is the model's reading (log 54), as is that the bay's own bytes are free values then (log 83). -/
def Obligations.BayTable : Prop :=
  ∀ (s : State) (d : XReg) (n : BayNo) (e : BayEntry),
    let code := (s.tile s.curTile).cfgCode n (s.bayImage e) (s.bayBusy s.curTile n)
    let busy := s.bayBusy s.curTile n
    let b := s.bay n
    let seen := s.cx.regs.priv = .S ∨ b.admits s.curCtx = true
    (Mem.wf (s.tile s.curTile).sp = true → s.ready (.baycfg d n e) = true →
      (s.cx.regs.priv = .U → exec (.baycfg d n e) s = .next (s.trapCur .privilegeViolation))
      ∧ (s.cx.regs.priv = .S → code ≠ 0 → exec (.baycfg d n e) s = .next (s.flyX 1 d (BitVec.ofNat 64 code)))
      ∧ (s.cx.regs.priv = .S → code = 0 → ∃ s', exec (.baycfg d n e) s = .next s'
        ∧ (let z := s.bayImage e
          let live := z.sync = true ∧ z.size ≠ 0
          (s'.tile s.curTile).bay n = { z with st := if live then .ready else .empty }
          ∧ ∀ a, Mem.read (s'.tile s.curTile).sp a =
            if live ∧ z.base.toNat * 4096 ≤ a ∧ a < (z.base.toNat + z.size.toNat) * 4096 then 0
            else Mem.read (s.tile s.curTile).sp a)))
    ∧ (s.ready (.bayst d n) = true →
      (seen → exec (.bayst d n) s = .next (s.flyX 1 d b.word)) ∧ (¬ seen → exec (.bayst d n) s = .next (s.trapCur .bayAccess)))
    ∧ (b.admits s.curCtx = false → exec (.bayrel n) s = .next (s.trapCur .bayAccess))
    ∧ (b.admits s.curCtx = true → b.sync = true → exec (.bayrel n) s = .next (s.trapCur .illegalOperand))
    ∧ (b.admits s.curCtx = true → b.sync = false →
      (busy = true ∨ b.st = .filling ∨ b.st = .draining → exec (.bayrel n) s = .next (s.blocked (.bayrel n)))
      ∧ (busy = false → b.st = .empty → exec (.bayrel n) s = .next s)
      ∧ (busy = false → b.st = .ready → Mem.wf (s.tile s.curTile).sp = true → ∃ s', exec (.bayrel n) s = .next s'
        ∧ (s'.tile s.curTile).bay n = { b with st := .empty }
        ∧ SameSpBut s.curTile (b.base.toNat * 4096) (b.size.toNat * 4096) s s'))

/-! ### The G slot (R12, R202 to R210, R285 to R290) -/

/-- The G accesses at issue: with room in their class counter, an address below 2^52 and aligned, each joins its
context's outstanding accesses with its address and operands, and raises LD or ST; a synchronising form or fence exposes
its segment. Where the context holds nothing that could go out, no byte of memory, no unit, no other context and no
register but the counter, NRES, the stepped address register and the map states of vector names changes. GPREF joins
none and steps its address register, whatever lines it moves. Address Range is raised at 2^52 and above, then Misaligned
(R12, R27, R203, R204, R207, R318, R320). That a store leaves ST when it is accepted, and that a GPREF of no address
steps too, is the model's reading (log 12, log 85). -/
def Obligations.GlobalIssues : Prop :=
  (∀ (s : State) (t : TileNo) (c : CtxNo) (sx : Bool) (sz : Size) (d x n : XReg) (g : GAddr) (e : SAddr) (op : GatomOp)
     (sc : Scope) (rel : RelOp) (v : VUse) (vd : VReg), s.cur = .hw t c →
     let a := s.a g.ai + g.disp.signExtend 64
     let b := s.x e.xa + e.disp.signExtend 64
     let k := Size.bytes sz
     let stepped := if g.ps then s.cx.regs.as.set g.ai (s.a g.ai + (s.cx.regs.asteps[g.ai]).signExtend 64) else s.cx.regs.as
     let starts := fun (i : Instr) (ea data arg : Word) (align : Nat) (as : Vector Word 16) => s.ready i = true →
       ea.toNat < 2 ^ 52 → ea.toNat % align = 0 → (countsLd i = true → s.cx.regs.ld < 63) →
       (countsLd i = false → s.cx.regs.st < 63) →
       ∃ (s' : State) (h : GAcc), exec i s = .next s' ∧ s'.cx.gaccs = s.cx.gaccs ++ [h] ∧ h.ins.ins = i ∧ h.ea = ea
         ∧ h.data = data ∧ h.arg = arg ∧ h.stat = .outstanding
         ∧ s'.cx.regs.ld = (if countsLd i then s.cx.regs.ld + 1 else s.cx.regs.ld)
         ∧ s'.cx.regs.st = (if countsLd i then s.cx.regs.st else s.cx.regs.st + 1)
         ∧ (isSyncOp i = true ∨ isFence i = true → s'.cx.exposed = true)
         ∧ (s.cx.hold = [] → SameMemory s s' ∧ SameUnits s s' ∧ SameOthers s s' ∧ s'.agenda = s.agenda
           ∧ { s'.cx.regs with vmap := s.cx.regs.vmap } = { s.cx.regs with
               ld := s'.cx.regs.ld, st := s'.cx.regs.st, nres := true, as := as }
           ∧ ((∀ u w, i ≠ .gldv u w) → (∀ u w, i ≠ .gstv u w) → s'.cx.regs.vmap = s.cx.regs.vmap))
     let z := s.cx.regs.as
     (starts (.gld sx sz d g) a 0 0 k stepped ∧ starts (.gldc sx sz d g) a 0 0 k stepped
       ∧ starts (.gst sz x g) a (s.x x) 0 k stepped ∧ starts (.gstc sz x g) a (s.x x) 0 k stepped
       ∧ (s.cx.vecOut < 2 → starts (.gstv v g) a 0 0 256 stepped)
       ∧ (s.cx.vecOut < 2 → (s.claimV s vd).isSome = true → starts (.gldv vd g) a 0 0 256 stepped))
     ∧ (starts (.gatom op sc d x e) b (s.x x) 0 8 z ∧ starts (.gcas sc d n e) b (s.x n) (s.x d) 8 z
       ∧ starts (.acq sc d e) b 0 0 8 z ∧ starts (.acqs sc d x e) b 0 (s.x x) 8 z ∧ starts (.rel rel sc x e) b (s.x x) 0 8 z
       ∧ starts (.bind d x n e) b (s.x x) (s.x n) 8 z ∧ starts (.unbind d e) b 0 0 8 z)
     ∧ starts (.gfence sc) 0 0 0 1 z ∧ starts (.ginv n g) a (s.x n) 0 1 stepped ∧ starts (.gwb n g) a (s.x n) 0 1 stepped
     ∧ (s.ready (.gprobe d g) = true → s.cx.regs.ld < 63 → ∃ (s' : State) (h : GAcc), exec (.gprobe d g) s = .next s'
       ∧ s'.cx.gaccs = s.cx.gaccs ++ [h] ∧ h.ins.ins = .gprobe d g ∧ h.ea = a)
     ∧ (∀ lvl, 2 ^ 52 ≤ a.toNat ∨ lvl = .sys → exec (.gpref lvl g) s = .next (s.stepA s g.ps g.ai))
     ∧ ∀ lvl, ∃ s', exec (.gpref lvl g) s = .next s' ∧ SameSp s s' ∧ SameStores s s' ∧ SameUnits s s' ∧ SameOthers s s'
       ∧ s'.cx.gaccs = s.cx.gaccs ∧ { s'.cx.regs with as := s.cx.regs.as } = s.cx.regs
       ∧ s'.cx.regs.as[g.ai] = (if g.ps then s.a g.ai + (s.cx.regs.asteps[g.ai]).signExtend 64 else s.a g.ai))
  ∧ (∀ (s : State) (sx : Bool) (sz : Size) (d x n : XReg) (g : GAddr) (e : SAddr) (op : GatomOp) (sc : Scope) (rel : RelOp)
       (v : VUse) (vd : VReg),
       let a := (s.a g.ai + g.disp.signExtend 64).toNat
       let b := (s.x e.xa + e.disp.signExtend 64).toNat
       let k := Size.bytes sz
       ∀ z ∈ [(Instr.gld sx sz d g, a, k), (.gldc sx sz d g, a, k), (.gst sz x g, a, k), (.gstc sz x g, a, k),
           (.gldv vd g, a, 256), (.gstv v g, a, 256), (.gatom op sc d x e, b, 8), (.gcas sc d n e, b, 8), (.acq sc d e, b, 8),
           (.acqs sc d x e, b, 8), (.rel rel sc x e, b, 8), (.bind d x n e, b, 8), (.unbind d e, b, 8), (.ginv n g, a, 1),
           (.gwb n g, a, 1)],
         s.ready z.1 = true →
         (2 ^ 52 ≤ z.2.1 → exec z.1 s = .next (s.trapCur .addressRange))
         ∧ (z.2.1 < 2 ^ 52 → z.2.1 % z.2.2 ≠ 0 → exec z.1 s = .next (s.trapCur .misaligned)))

/-- An access whose time has come and that waits for no other of its context, no signal before it and no flip of its page
takes effect and leaves its counter, or faults with the code of its translation; one ordered after an access that
faulted is to be replayed, a failure at the peer is what R206 makes of it, and before its time nothing happens. The
sync operations act at the object's home, which becomes a sync-object line: GATOM writes its operation's value and
returns the old one, GCAS writes where the old value is the one compared, and an object that does not translate is a
Load Fault. A load gives the bytes of its line, with the context's own stores over them; a store that has its place goes out
to the home, or into L1 as the context's dirty bytes; ACQ and a taken ACQS answer the object's word, write back and drop
what is bound to it, or raise Release Incomplete; REL writes back before it writes the object, and marks what is refused;
BIND and UNBIND enter and take out ranges; GFENCE, GWB and GINV write back and drop theirs; GPROBE reads the leaf. A
complete access writes its register and lowers its counter, or its record of the frame; a fault marks its record (R202 to
R210, R282, R284 to R286, R290, R299, R302, R307, R308, R318). That a line may leave L1 at any access is log 9, that a
store leaves ST once accepted log 12, that of the free entries BIND takes the lowest log 76, that a lost load into X0 sets
STKY too log 84, and that a sync operation lost at a peer is Remote Access Error log 26: the model's choices. -/
def Obligations.GlobalCompletion : Prop :=
  (∀ (s : State) (t : TileNo) (c : CtxNo) (p : PartNo) (g : GAcc), let x := s.ctxAt t c
     let i := Instr.gAccessCompletion t c g.id
     let due := g.stat = .outstanding ∧ g.due ≤ (s.tile t).cycle ∧ x.mustWait g = false
     let kept := s.signalBefore t c g = true ∨ s.flipping p g.range = true
     x.acc? g.id = some g → s.partOf t = some p →
     (¬ due → exec i s = .next s)
     ∧ (due → x.mustReplay g = true →
       exec i s = .next ((s.onCtx t c fun x => x.onAcc g.id fun k => { k with stat := .replay }).syncFrame t c))
     ∧ (due → x.mustReplay g = false → kept → exec i s = .next s)
     ∧ (due → x.mustReplay g = false → ¬ kept →
       (∀ s1 cause, s.gEffect t c p g = .fault s1 cause → exec i s = .next (s1.faultG t c g cause))
       ∧ (∀ s1 v w, s.gEffect t c p g = .value s1 v w → exec i s = .next (s1.finishG t c g v w))
       ∧ (s.gEffect t c p g = .poison → exec i s = .next (s.poisonTask t c))
       ∧ (s.gEffect t c p g = .lost → exec i s = .next (s.lostG t c g))))
  ∧ (∀ (s : State) (t : TileNo) (c : CtxNo) (p : PartNo) (g : GAcc) (op : GatomOp) (sc : Scope) (d x : XReg) (e : SAddr)
       (h : Home), let a := g.ea.toNat
       let s1 := s.makeSync p a h (some t)
       let old := s1.readQ h
       let home := s.lost h = false ∧ s.homePoison h 8 = false ∧ s.translate p a true = .ok h
       (home → g.ins.ins = .gatom op sc d x e →
         s.gEffect t c p g = .value (s1.writeQ h (GatomOp.apply op old g.data)) old 0)
       ∧ (home → g.ins.ins = .gcas sc d x e → old = g.arg → s.gEffect t c p g = .value (s1.writeQ h g.data) old 0)
       ∧ (home → g.ins.ins = .gcas sc d x e → old ≠ g.arg → s.gEffect t c p g = .value s1 old 0)
       ∧ (s.translate p a true = .error .storeFault → (g.ins.ins = .gatom op sc d x e ∨ g.ins.ins = .gcas sc d x e) →
         s.gEffect t c p g = .fault s .loadFault)
       ∧ s1.isSync h = true)
  ∧ (∀ (s s1 : State) (t : TileNo) (c : CtxNo) (p : PartNo) (g : GAcc) (cause : Cause), let x := s.ctxAt t c
       let i := fun (k : Cause) => Instr.gAccessFault t c g.id (BitVec.ofNat 8 k.code)
       let open_ := g.stat = .outstanding ∧ x.mustWait g = false ∧ x.mustReplay g = false
         ∧ s.signalBefore t c g = false ∧ s.flipping p g.range = false
       x.acc? g.id = some g → s.partOf t = some p →
       (¬ open_ → exec (i cause) s = .next s)
       ∧ (open_ → s.atPeer p g = true → exec (i .remoteAccess) s = .next (s.lostG t c g))
       ∧ (open_ → cause ≠ .remoteAccess → s.gEffect t c p g = .fault s1 cause →
         exec (i cause) s = .next (s1.faultG t c g cause)))
  ∧ (∀ (s : State) (t : TileNo) (c : CtxNo) (p : PartNo) (g : GAcc) (h : Home) (sx : Bool) (sz : Size) (d x : XReg) (v : VReg)
       (u : VUse) (e : GAddr), MemsWf s → let a := g.ea.toNat
     let own := (s.ctxAt t c).hold.filterMap fun (k : Hold) => match k.kind with
       | .store _ ea bs true => some (ea, bs)
       | _ => none
     let loads := fun n (q : State → Word → VImage → List Byte → Prop) => s.serves t p a n h false →
       ∃ s1 w img bs, s.gEffect t c p g = .value s1 w img ∧ q s1 w img bs ∧ bs.length = n
         ∧ (∀ i < n, ∃ b, s.mayRead t p (a + i) (h.add i) b ∧ bs[i]? = some ((lastByte own (a + i)).getD b))
         ∧ (∀ t c, s1.ctxAt t c = s.ctxAt t c) ∧ s1.dram = s.dram ∧ s1.host = s.host
     (g.ins.ins = .gld sx sz d e ∨ g.ins.ins = .gldc sx sz d e → a % 256 + Size.bytes sz ≤ 256 →
       loads (Size.bytes sz) fun _ w _ bs => w = (let r := BitVec.ofNat (8 * Size.bytes sz) (natOfBytes bs)
         if sx then r.signExtend 64 else r.zeroExtend 64))
     ∧ (g.ins.ins = .gldv v e → a % 256 = 0 →
       loads 4096 fun _ _ img bs => ∀ i < 4096, bs[i]? = some (img.extractLsb' (8 * i) 8))
     ∧ ∀ z ∈ [(Instr.gst sz x e, Size.bytes sz), (.gstc sz x e, Size.bytes sz), (.gstv u e, 4096)], g.ins.ins = z.1 →
       s.serves t p a z.2 h true → s.gEffect t c p g = .value s 0 0)
  ∧ (∀ (s : State) (t : TileNo) (c : CtxNo) (p : PartNo) (g : GAcc) (h : Home) (seg af en a : Nat) (bs : List Byte) (acc : Bool),
     let x := s.ctxAt t c
     let s' := s.finishG t c g 0 0
     let q := fun i => lineKey p (a + i)
     MemsWf s → s.partOf t = some p → isGStore g.ins.ins = true → x.inFrame g.id = false → bs.length ≤ 4096 →
     x.hold = [⟨seg, af, en, .store g.id a bs acc⟩] → x.mayLeave ⟨seg, af, en, .store g.id a bs acc⟩ = true →
     a + bs.length ≤ 2 ^ 52 → s.serves t p a bs.length h true →
     (s'.ctxAt t c).hold = [] ∧ (g.uncounted = false → (s'.ctxAt t c).regs.st = x.regs.st - 1)
     ∧ ((∀ z ∈ piecesOf a bs.length, s.direct (h.add (z.1 - a)) = true) →
       (∀ i < bs.length, bs[i]? = some (s'.byteAt (h.add i)))
       ∧ ∀ k, (∀ i < bs.length, k ≠ h.add i) → (∀ d b, k = .peer d b → d < 64 ∧ b < 2 ^ 40) →
         (∀ d b, h = .peer d b → d < 64 ∧ b + bs.length ≤ 2 ^ 40) → s'.byteAt k = s.byteAt k)
     ∧ ((∀ z ∈ piecesOf a bs.length, s.direct (h.add (z.1 - a)) = false) → SameHomes s s'
       ∧ ∀ i < bs.length, ∃ l, s'.line? t (q i) = some l ∧ bs[i]? = some (byteOf l.data ((a + i) % 256))
         ∧ (l.dirty[c]).getLsbD ((a + i) % 256) = true))
  ∧ (∀ (s : State) (t : TileNo) (c : CtxNo) (p : PartNo) (g : GAcc) (h : Home) (op : RelOp) (sc : Scope) (d x n : XReg)
       (e : SAddr), let a := g.ea.toNat
     let s1 := s.makeSync p a h (some t)
     let v := s1.readQ h
     let binds := (s.part p).binds
     let rs := binds.filterMap fun b => if b.2.obj = h then some (b.2.lo, b.2.len) else none
     let home := fun (w : Bool) => s.lost h = false ∧ s.homePoison h 8 = false ∧ s.translate p a w = .ok h
     let takes := (h ∉ s.incomplete → ∃ s0, s.gEffect t c p g = .value s0 v 0 ∧ s1.wroteBack s0 t c p rs (scopeReach sc) true)
       ∧ (h ∈ s.incomplete → ∃ s0, s.gEffect t c p g = .fault s0 .releaseIncomplete
         ∧ s0.incomplete = s.incomplete.filter (· != h) ∧ SameMemory s1 s0)
     s.partOf t = some p →
     (s.isSync h = true → SameMemory s s1)
     ∧ (home false → g.ins.ins = .acq sc d e → takes)
     ∧ (home false → g.ins.ins = .acqs sc d x e → g.arg.toNat ≤ v.toNat → takes)
     ∧ (home false → g.ins.ins = .acqs sc d x e → v.toNat < g.arg.toNat → s.gEffect t c p g = .value s1 v 0)
     ∧ (home (op != .none) → g.ins.ins = .rel op sc x e → ∃ s0, s1.wroteBack s0 t c p rs (scopeReach sc) false
       ∧ s.gEffect t c p g = .value (match op with
         | .none => s0
         | .st => s0.writeQ h g.data
         | .add => s0.writeQ h (s0.readQ h + g.data)) 0 0
       ∧ (s1.lineKeys t p rs = [] → s1.clineKeys (clusterOf t) p rs = [] → s0.incomplete = s1.incomplete)
       ∧ ∀ key ∈ s1.lineKeys t p rs, ∀ l, s1.line? t key = some l → s1.lost l.home = true → scopeReach sc = 3 →
         s1.dirtyIn t (some c) rs key ≠ 0 → h ∈ s0.incomplete)
     ∧ (home false → g.ins.ins = .bind d x n e → let lo := g.data.toNat
       let len := g.arg.toNat
       let bad := lo % 256 ≠ 0 ∨ len % 256 ≠ 0 ∨ len = 0 ∨ 2 ^ 40 < len ∨ 2 ^ 52 < lo + len
       let laps := ∃ b ∈ binds, b.2.lo < lo + len ∧ lo < b.2.lo + b.2.len
       (bad → s.gEffect t c p g = .value s1 0xFFFFFFFFFFFFFFF3 0)
       ∧ (¬ bad → laps → s.gEffect t c p g = .value s1 0xFFFFFFFFFFFFFFF2 0)
       ∧ (¬ bad → ¬ laps → Map.freeFrom binds 0 1024 = none → s.gEffect t c p g = .value s1 0xFFFFFFFFFFFFFFF1 0)
       ∧ ∀ k, ¬ bad → ¬ laps → Map.freeFrom binds 0 1024 = some k → s.gEffect t c p g =
         .value (s1.onPart p fun y => { y with binds := Map.set y.binds k ⟨h, lo, len⟩ }) (BitVec.ofNat 64 k) 0)
     ∧ (home false → g.ins.ins = .unbind d e → ∃ s0, s1.wroteBack s0 t c p rs 2 false
       ∧ s.gEffect t c p g = .value (s0.onPart p fun y => { y with binds := y.binds.filter fun b => b.2.obj != h })
         (BitVec.ofNat 64 rs.length) 0))
  ∧ (∀ (s : State) (t : TileNo) (c : CtxNo) (p : PartNo) (g : GAcc) (sc : Scope) (d n : XReg) (e : GAddr),
     let a := g.ea.toNat
     let m := min g.data.toNat (2 ^ 52 - a)
     let moves := fun (rs : Ranges) (reach : Nat) (drops : Bool) =>
       ∃ s0, s.gEffect t c p g = .value s0 0 0 ∧ s.wroteBack s0 t c p rs reach drops
     s.partOf t = some p →
     (g.ins.ins = .gfence sc → moves [(0, 2 ^ 52)] (scopeReach sc) true)
     ∧ (g.ins.ins = .gwb n e → 0 < m → moves [(a, m)] 3 false)
     ∧ (g.ins.ins = .ginv n e → 0 < m → moves [(a, m)] 3 true)
     ∧ (g.ins.ins = .gwb n e ∨ g.ins.ins = .ginv n e → m = 0 → s.gEffect t c p g = .value s 0 0)
     ∧ (g.ins.ins = .gprobe d e → s.gEffect t c p g = .value s (match s.leaf p a with
       | none => 0
       | some l => BitVec.ofNat 64 (1 + l.writable.toNat * 2 + l.hb.toNat * 4 + l.isPeer.toNat * 8 + l.shared.toNat * 16
         + l.big.toNat * 32)) 0))
  ∧ (∀ (s : State) (t : TileNo) (c : CtxNo) (g : GAcc) (v : Word) (w : VImage) (cause : Cause), let x := s.ctxAt t c
     let s' := s.finishG t c g v w
     let y := s'.ctxAt t c
     let z := (s.faultG t c g cause).ctxAt t c
     let lost := s.lostG t c g
     let winds := x.run = .winding
     let reg := match g.ins.ins with
       | .gldv _ _ => none
       | i => insGX i
     (∀ k ∈ x.hold, x.mayLeave k = false) → ¬ winds →
     (x.inFrame g.id = false → SameMemory s s' ∧ y.gaccs = x.gaccs.filter (fun k => k.id != g.id)
       ∧ y.regs = { x.regs with
           ld := if countsLd g.ins.ins = true ∧ g.uncounted = false then x.regs.ld - 1 else x.regs.ld,
           st := if countsLd g.ins.ins = false ∧ g.uncounted = false then x.regs.st - 1 else x.regs.st,
           xs := match reg with
             | some d => if d = 0 then x.regs.xs else x.regs.xs.set d v
             | none => x.regs.xs }
       ∧ (∀ d e, g.ins.ins = .gldv d e → ((s'.tile t).pool[g.pv]).val = w)
       ∧ y.hold = x.hold.map fun k => match k.kind with
         | .store i ea bs acc => if isGStore g.ins.ins = true ∧ i = g.id then { k with kind := .store i ea bs true } else k
         | _ => k)
     ∧ (x.inFrame g.id = true → y.regs = x.regs ∧ y.frame = x.frame.map fun f => { f with pend := f.pend.map fun k =>
         if k.id = g.id then { k with
           stat := .done, data := if countsLd g.ins.ins then v else k.data,
           vec := if isGStore g.ins.ins then k.vec else w } else k })
     ∧ (x.frame = none → SameMemory s (s.faultG t c g cause) ∧ z.regs = x.regs ∧ z.hold = x.hold
       ∧ z.gaccs = x.gaccs.map fun k => if k.id = g.id then { k with
           stat := .faulted, fcode := BitVec.ofNat 8 cause.code, dlv := false } else k)
     ∧ ((isSyncOp g.ins.ins = true ∨ (∃ sx sz d e, g.ins.ins = .gldc sx sz d e) ∨ ∃ sz d e, g.ins.ins = .gstc sz d e) →
       lost = s.faultG t c g .remoteAccess)
     ∧ (∀ sz r e, g.ins.ins = .gst sz r e → x.inFrame g.id = false → SameMemory s lost
       ∧ (lost.ctxAt t c).regs.stky = x.regs.stky ||| 0x100 ∧ (lost.ctxAt t c).regs.xs = x.regs.xs
       ∧ ∀ k ∈ (lost.ctxAt t c).hold, ∀ ea bs acc, k.kind ≠ .store g.id ea bs acc)
     ∧ ∀ sx sz d e, g.ins.ins = .gld sx sz d e → x.inFrame g.id = false → SameMemory s lost
       ∧ (lost.ctxAt t c).regs.stky = x.regs.stky ||| 0x100
       ∧ (lost.ctxAt t c).regs.xs = if d = 0 then x.regs.xs else x.regs.xs.set d (BitVec.allOnes 64))

/-! ### Engine commands (R211 to R228, R244, R265 to R267) -/

/-- A command whose locators are fit and whose operands are in range joins its tile's queue with its operands, and CP
rises; with CP at its maximum it waits; JOIN and LEAVE are of S alone; a BCAST member that is not the root may give no
source (R27, R211 to R220, R223, R226, R227, R244, R265, R268). What a CPYB checks of a range without the issuing tile is
the model's reading (log 27). -/
def Obligations.CommandsQueue : Prop :=
  ∀ (s : State) (t : TileNo) (c : CtxNo) (b sr d rr : XReg) (ctl : CopyCtl) (n : BitVec 32) (mask hold : BitVec 16)
    (ev : BitVec 12) (slot : Option SlotNo) (sl : SlotNo) (sbay dbay : Bool) (defer : Option (Fin 16)) (g : Fin 16)
    (k : CollCtl) (cn : BitVec 29) (f : Feed) (ssp : SrcSpace), s.cur = .hw t c →
    let goes := fun (i : Instr) (ops : Vector Word 4) (slot : Option SlotNo) => s.ready i = true →
      (s.cx.regs.cp < 31 → ∃ s', exec i s = .next s' ∧ s.queues s' t c i ops slot)
        ∧ (31 ≤ s.cx.regs.cp → exec i s = .next s)
    let reads := s.srcFit ctl.ssp (s.x sr)
    let writes := s.dstFit ctl.dsp (s.x d)
    let span := fun (w : Word) => ((w.extractLsb' 8 8).toNat)
    let held := (tileRange (s.x b)).contains t.val = true
    let named := (k.bin = true ∨ k.bout = true) → malformedRef (s.x b) = false ∧ s.settled
    let from_ := s.srcFit (if k.sbay then .bay else .global) (s.x sr)
    let into := s.dstFit (if k.dbay then .bay else .global) (s.x d)
    (reads → writes → (ctl.bin = true ∨ ctl.bout = true → s.settled) →
      goes (.cpy b sr d rr ctl) (four (s.x b) (s.x sr) (s.x d) (s.x rr)) ctl.slot
      ∧ goes (.cpyi b sr d ctl n) (four (s.x b) (s.x sr) (s.x d) 0) ctl.slot
      ∧ goes (.cpys b sr d rr ctl) (four (s.x b) (s.x sr) (s.x d) (s.x rr)) ctl.slot)
    ∧ (reads → (ctl.bin = true ∨ ctl.bout = true → s.settled) → 1 ≤ span (s.x b) ∧ span (s.x b) ≤ 40 →
      (held → s.dstFit .bay (s.x d)) →
      (¬ held → (bayLoc t (s.x d)).isSome = true) →
      goes (.cpyb b sr d rr ctl) (four (s.x b) (s.x sr) (s.x d) (s.x rr)) ctl.slot)
    ∧ goes (.pub mask) (four 0 0 0 0) none ∧ goes (.evpost b ev) (four 0 (s.x b) 0 0) none
    ∧ goes (.mcmt sl) (four 0 0 0 0) (some sl) ∧ goes (.mabt sl) (four 0 0 0 0) (some sl)
    ∧ ((s.x b).toNat < 2 ^ 16 → 1 ≤ span (s.x b) ∧ span (s.x b) ≤ 160 →
      goes (.tilewk b hold) (four 0 (s.x b) 0 0) none ∧ goes (.tileoff b) (four 0 (s.x b) 0 0) none)
    ∧ ((s.x d).toNat % 64 = 0 → (s.x rr).toNat % 64 = 0 → (s.x d).toNat + (s.x rr).toNat ≤ mramProg →
      s.srcFit (if sbay then .bay else .global) (s.x sr) →
      goes (.mwr sr d rr slot sbay) (four 0 (s.x sr) (s.x d) (s.x rr)) slot)
    ∧ ((s.x b).toNat % 4 = 0 → 4 ≤ (s.x b).toNat → (s.x b).toNat ≤ 2 ^ 32 →
      s.dstFit (if dbay then .bay else .global) (s.x d) →
      goes (.snget b sr d rr slot defer dbay) (four (s.x b) (s.x sr) (s.x d) (s.x rr)) slot)
    ∧ (s.cx.regs.priv = .S → goes (.cgrpJoin d b g) (four 0 (s.x b) 0 0) none
      ∧ goes (.cgrpLeave d g) (four 0 0 0 0) none)
    ∧ (s.cx.regs.priv = .U → (s.ready (.cgrpJoin d b g) = true →
        exec (.cgrpJoin d b g) s = .next (s.trapCur .privilegeViolation))
      ∧ (s.ready (.cgrpLeave d g) = true → exec (.cgrpLeave d g) s = .next (s.trapCur .privilegeViolation)))
    ∧ (named → from_ → into →
      goes (.collAllreduce b sr d k cn) (four (s.x b) (s.x sr) (s.x d) 0) k.slot
      ∧ goes (.collRedscat b sr d k cn) (four (s.x b) (s.x sr) (s.x d) 0) k.slot
      ∧ goes (.collAllgath b sr d k cn) (four (s.x b) (s.x sr) (s.x d) 0) k.slot)
    ∧ (named → ((s.x sr = 0 ∧ s.isRoot k (s.x rr) = false) ∨ from_) → into →
      goes (.collBcast b sr d rr k cn) (four (s.x b) (s.x sr) (s.x d) (s.x rr)) k.slot)
    ∧ (1 ≤ (s.x b).toNat → (s.x b).toNat ≤ 65535 → s.srcFit ssp (s.x sr) →
      goes (.cfeed b sr d f ssp) (four (s.x b) (s.x sr) (s.x d) 0) none)

/-- What answers at once or by a Lantern step: CSTAT and MWEAR read, CABRT ends the commands it names and leaves the others,
and the Lantern instructions count in CP and send their step with their segment, exposed where R320 says so; SNCFG is of S
alone (R220, R221, R225, R239, R241, R245 to R247, R318, R320). That MWEAR and CABRT act at issue and join no queue is the
model's reading (log 57). -/
def Obligations.CommandsAnswer : Prop :=
  ∀ (s : State) (t : TileNo) (c : CtxNo) (d h rr n : XReg) (m : SlotNo) (sel : AbortSel) (kind peek expl : Bool)
    (q : SnSel) (cost limit : BitVec 32) (gl : Fin 7), s.cur = .hw t c →
    let cmds := (s.tile t).cmds
    let mine := fun (k : Cmd) => k.ctx = c ∧ k.tid = s.tid ∧ AbortSel.names sel k = true
    let wear := Map.getD (s.tile t).wear ((s.x h).toNat / 4096) (0, 0)
    let sends := fun (i : Instr) (s0 : State) (op : LanOp) => s.ready i = true →
      (s.cx.regs.cp < 31 → exec i s = .next (s0.holdStep 16 (.lanternStep t c s.tid op)).setNres)
        ∧ (31 ≤ s.cx.regs.cp → exec i s = .next s)
    let o := s.bay (Fin.ofNat 64 ((s.x rr).extractLsb' 23 6).toNat)
    let at_ := o.start_ false + ((s.x rr).extractLsb' 0 23).toNat
    let len := 4 * (s.x n).toNat
    let walked := 4 * s.tokensRead s.curPart (s.x h) (s.x n).toNat
    let cfg := [(Instr.sncfgCreate d rr gl expl limit, LanOp.create d (s.x rr) gl expl limit),
      (.sncfgDestroy d h, .destroy d (s.x h)), (.sncfgFlush d h, .flush d (s.x h))]
    (s.ready (.cstat d m) = true → exec (.cstat d m) s = .next (s.flyX 1 d s.cx.regs.slots[m]))
    ∧ (s.ready (.mwear d h kind) = true → exec (.mwear d h kind) s = .next (if (s.x h).toNat < mramSize
        then s.flyX 32 d (BitVec.ofNat 64 (if kind then wear.2 else wear.1)) else s.trapCur .illegalOperand))
    ∧ (s.ready (.cabrt sel) = true → ∃ s', exec (.cabrt sel) s = .next s'
      ∧ (∀ k ∈ cmds, mine k → ∀ j ∈ (s'.tile t).cmds, j.id ≠ k.id)
      ∧ ∀ k ∈ cmds, (∀ j ∈ cmds, j.id = k.id → ¬ mine j) → ∃ j ∈ (s'.tile t).cmds, j.id = k.id)
    ∧ sends (.snput d h rr n cost) s.cpUp.exposeCur (.put d (s.x h) (s.x rr) (s.x n) cost s.nextId)
    ∧ sends (.snrel h) s.cpUp (.rel (s.x h)) ∧ sends (.snhold h) s.cpUp (.hold (s.x h))
    ∧ sends (.snstat d h q) s.cpUp.exposeCur (.stat d (s.x h) q)
    ∧ (s.cx.regs.priv = .S → ∀ z ∈ cfg, sends z.1 s.cpUp.exposeCur z.2)
    ∧ (s.cx.regs.priv = .U → ∀ z ∈ cfg, s.ready z.1 = true → exec z.1 s = .next (s.trapCur .privilegeViolation))
    ∧ ((s.x n).toNat < 2 ^ 24 → s.srcFit .bay (s.x rr) → ((s.x rr).extractLsb' 0 23).toNat + len ≤ o.len →
      (anyPoison (s.tile t).spPoison at_ walked = false →
        sends (.snfind d h rr n peek) (s.readExposes t (some c) at_ len).cpUp.exposeCur
          (.find d (s.x h) ((tokensOf ((s.tile t).readSp at_ len)).map (BitVec.ofNat 32)) peek))
      ∧ (anyPoison (s.tile t).spPoison at_ walked = true → s.ready (.snfind d h rr n peek) = true →
        exec (.snfind d h rr n peek) s = .next ((s.readExposes t (some c) at_ len).poisonTask t c)))

/-- A copy with immediate length starts by reading its source whole and moving its bays, and then its last source read
follows; that read frees the source bay, and the publish puts the bytes in the order gathered at the destination bay,
READY or flipped, with nothing else of the scratchpad changed; the command is gone then, CP has fallen and its slot says
OK. A command that its barrier or its bank turned away ends with a record. CFEED pushes one panel at a time (R167, R184,
R213 to R217, R220, R222, R228, R395). When these steps come is free (log 16). -/
def Obligations.CopiesRun : Prop :=
  ∀ (s : State) (t : TileNo) (p : PartNo) (id : Nat) (k : Cmd) (ctl : CopyCtl), s.partOf t = some p →
    (s.tile t).cmd? id = some k →
    let x := s.ctxAt t k.ctx
    let s0 := s.exposeSource t k
    (∀ d, k.stat = .issued → k.doom = some d → ∃ s', exec (.copyStart t id) s = .next s' ∧ (s'.tile t).cmd? id = none
      ∧ (x.runs k.tid = true → x.dq.length < 32 →
        (s'.ctxAt t k.ctx).dq = x.dq ++ [defRec d (opcodeOf k.ins) k.slot (k.doomed d)]))
    ∧ (∀ b sr dd n r a, k.ins.ins = .cpyi b sr dd ctl n → k.stat = .issued → k.doom = none → k.tiles = [] →
      (s.tile t).engineFree k = true → s.anyFlip t = false → (ctl.bin = true ∨ ctl.bout = true → k.bar.isSome = true) →
      (ctl.dsp = .bank → (s.tile t).bankInUse k.tid (locBank k.ops[2]) = false) →
      (s.tile t).mramWait ctl.ssp k.ops[1] [0] n.toNat = false → s0.srcRead t k ctl.ssp k.ops[1] 0 n.toNat = .ok r →
      (s0.tile t).place t ctl.dsp k.ops[2] 0 n.toNat = some a →
      ∃ s' j, exec (.copyStart t id) s = .next s' ∧ (s'.tile t).cmd? id = some j ∧ j.stat = .started
        ∧ j.buf = [(a, r.1)] ∧ j.sums = sumsOf j.buf ∧ j.poison = r.2 ∧ s'.due (.lastSourceRead t id)
        ∧ (∀ m, k.srcBay = some m → k.dstBay ≠ some m → ((s'.tile t).bay m).st = .draining)
        ∧ ∀ m, k.dstBay = some m → ((s.tile t).bay m).shadow = false → ((s'.tile t).bay m).st = .filling)
    ∧ (k.ctl? = some ctl → k.stat = .started → ∃ s' j, exec (.lastSourceRead t id) s = .next s'
      ∧ (s'.tile t).cmd? id = some j ∧ j.stat = .read ∧ s'.due (.copyPublish t id)
      ∧ ∀ n, k.srcBay = some n → ((s.tile t).bay n).st = .draining →
        ((s'.tile t).bay n).st = if ctl.keep || ((s.tile t).bay n).keep then .ready else .empty)
    ∧ (∀ n w, k.ctl? = some ctl → k.stat = .read → k.poison = false → k.crcBad = false → k.deferred = none →
      k.tiles = [] → k.bar = none → k.corrupt = false → s.asleep t = false → s.spTick t ≤ s.now →
      k.dest = some (.bay, w) → k.dstBay = some n → Mem.wf (s.tile t).sp = true →
      let b := (s.tile t).bay n
      ∃ s', exec (.copyPublish t id) s = .next s' ∧ (s'.tile t).cmd? id = none
        ∧ (s'.tile t).bay n = (if b.shadow then { b with front := !b.front } else { b with st := .ready })
        ∧ (∀ a, Mem.read (s'.tile t).sp a = (lastByte (k.buf.map fun q => (b.start_ b.shadow + q.1, q.2)) a).getD
          (Mem.read (s.tile t).sp a))
        ∧ (x.runs k.tid = true → (s'.ctxAt t k.ctx).regs.cp = x.regs.cp - 1
          ∧ ∀ m, k.slot = some m → (s'.ctxAt t k.ctx).regs.slots[m] = statusWord 0 k.crc))
    ∧ (∀ n sr st f ssp r, k.ins.ins = .cfeed n sr st f ssp →
      let off : Int := k.prog * k.ops[2].toInt
      k.crcBad = false → (s.tile t).feedBehind k f = false → x.room f = true → x.run ≠ .winding →
      (ssp = .global → x.storeBefore k.id = false ∧ s.anyFlip t = false) →
      (s.tile t).mramWait ssp k.ops[1] [off] (Feed.bytes f) = false → s0.srcRead t k ssp k.ops[1] off (Feed.bytes f) = .ok r →
      ∃ s', exec (.cfeedPanelAvailable t id) s = .next s'
        ∧ (s'.ctxAt t k.ctx).af = (x.push f r.1 r.2).af ∧ (s'.ctxAt t k.ctx).bf = (x.push f r.1 r.2).bf
        ∧ (s'.ctxAt t k.ctx).mq = (x.push f r.1 r.2).mq
        ∧ (k.ops[0].toNat ≤ k.prog + 1 → (s'.tile t).cmd? id = none)
        ∧ (k.prog + 1 < k.ops[0].toNat → s'.due (.cfeedPanelAvailable t id)
          ∧ ∃ j, (s'.tile t).cmd? id = some j ∧ j.prog = k.prog + 1))

/-- The journal: an MWR whose units are read joins the open transaction and ends OK, past 4 MiB the transaction fails with
JOURNAL_FULL, one that failed stays so and gives its code again, and an MWR of no bytes ends OK; MCMT starts the commit of a
transaction that holds and ends one that failed with its code, and MABT discards it; the apply puts every unit at its offset,
the last written on top, or leaves WRITE_FAIL in its slot, and ends the transaction (R223, R224). Whether the journal's own
check fails, and how often a unit is written again, are free (log 4); what an MWR of no bytes, or one of a failed
transaction, answers is the model's reading (log 56). -/
def Obligations.JournalRuns : Prop :=
  ∀ (s : State) (t : TileNo) (p : PartNo) (id : Nat) (k : Cmd) (j : Journal), s.partOf t = some p →
    (s.tile t).cmd? id = some k →
    let n := (k.buf.map fun q => q.2.length).sum
    let told := fun (s' : State) (code : Nat) => ∀ m, k.slot = some m → (s.ctxAt t k.ctx).runs k.tid = true →
      (s'.ctxAt t k.ctx).regs.slots[m] = statusWord code 0
    let ends := fun (ev : Instr) (js : List (Option Journal × Nat)) => ∃ s', exec ev s = .next s' ∧ (s'.tile t).cmd? id = none
      ∧ ∃ q ∈ js, (s'.tile t).journal = q.1 ∧ told s' q.2
    (∀ sr m l slot sbay, k.ins.ins = .mwr sr m l slot sbay → k.stat = .read → k.poison = false → k.corrupt = false →
      (s.tile t).journal = some j → j.owner = k.ctx →
      let ev := Instr.journalWriteComplete t id
      (n = 0 → ends ev [(some j, 0)])
      ∧ (n ≠ 0 → j.fail ≠ 0 → ends ev [(some j, j.fail)])
      ∧ (n ≠ 0 → j.fail = 0 → 4194304 < j.bytes + n → ends ev [(some { j with fail := 4 }, 4)])
      ∧ (n ≠ 0 → j.fail = 0 → j.bytes + n ≤ 4194304 →
        ends ev [(some { j with units := j.units ++ k.buf, bytes := j.bytes + n }, 0), (some { j with fail := 5 }, 5)]))
    ∧ (∀ m, k.ins.ins = .mcmt m → k.stat = .issued → k.doom = none → (s.tile t).journal = some j →
      j.committing = none → j.owner = k.ctx → (s.tile t).journalBehind k = false →
      (j.fail = 0 → ∃ s', exec (.copyStart t id) s = .next s'
        ∧ (s'.tile t).journal = some { j with committing := some id } ∧ s'.due (.journalApplyComplete t id))
      ∧ (j.fail ≠ 0 → ends (.copyStart t id) [(none, j.fail)]))
    ∧ (∀ m, k.ins.ins = .mabt m → k.stat = .issued → k.doom = none → (s.tile t).journal = some j →
      j.committing = none → j.owner = k.ctx → (s.tile t).journalBehind k = false → ends (.copyStart t id) [(none, 0)])
    ∧ ((s.tile t).journal = some j → j.committing = some id → Mem.wf (s.tile t).mram = true →
      ∃ s', exec (.journalApplyComplete t id) s = .next s' ∧ (s'.tile t).journal = none ∧ (s'.tile t).cmd? id = none
        ∧ (∀ a, lastByte j.cells a = none → Mem.read (s'.tile t).mram a = Mem.read (s.tile t).mram a)
        ∧ (((∀ a v, lastByte j.cells a = some v → Mem.read (s'.tile t).mram a = v) ∧ (k.stat = .started → told s' 0))
          ∨ (k.stat = .started → told s' 5)))

/-- A Lantern step always completes. A hold and a release move the count of the node their live handle names by one and
leave every other node; a handle that is not live, a count of 0 and a count that is full are deferred faults; a
statistic is read from the node's slot or its tree; a search for less than one run returns the node it starts at, held
but for a peek, and one from a handle that is not live says so (R232, R233, R237, R243, R246, R247). Which corner keys
what is the model's reading (log 28). -/
def Obligations.LanternSteps : Prop :=
  ∀ (s : State) (t : TileNo) (c : CtxNo) (tid : Nat) (p : PartNo) (h : Word) (slot : Nat) (n : Node) (tr : Tree),
    s.partOf t = some p →
    let go := fun (op : LanOp) => exec (.lanternStep t c tid op) s
    let late := fun (detail opc : Nat) (s : State) => (s.arrive t c tid (defRec detail opc none h)).dropCp t c tid
    let at_ := fun (s : State) (i : Nat) => Map.get? s.lantern.nodes i
    (∀ op, ∃ s', go op = .next s')
    ∧ (s.liveNode p h = none → go (.rel h) = .next (late 14 0xB9 s) ∧ go (.hold h) = .next (late 14 0xBB s)
      ∧ (∀ d q, go (.stat d h q) = .next ((s.returnX t c tid d (BitVec.allOnes 64)).dropCp t c tid))
      ∧ ∀ d run peek, ∃ s', go (.find d h run peek) = .next s' ∧ s'.lantern = s.lantern
        ∧ ((s.ctxAt t c).task.map (·.tid) = some tid → (s'.ctxAt t c).regs.x d = if d = 0 then 0 else 0x5000000000))
    ∧ (s.liveNode p h = some (slot, n, tr) →
      (n.holds = 0 → go (.rel h) = .next (late 13 0xB9 s))
      ∧ (0 < n.holds → ∃ s', go (.rel h) = .next s' ∧ at_ s' slot = some { n with holds := n.holds - 1 }
        ∧ (∀ i, i ≠ slot → at_ s' i = at_ s i) ∧ s'.lantern.trees = s.lantern.trees)
      ∧ (65535 ≤ n.holds → go (.hold h) = .next (late 12 0xBB s))
      ∧ (n.holds < 65535 → ∃ s', go (.hold h) = .next s' ∧ at_ s' slot = some { n with holds := n.holds + 1 }
        ∧ (∀ i, i ≠ slot → at_ s' i = at_ s i) ∧ s'.lantern.trees = s.lantern.trees)
      ∧ (∀ d, go (.stat d h .hits) = .next ((s.returnX t c tid d tr.hits).dropCp t c tid)
        ∧ go (.stat d h .misses) = .next ((s.returnX t c tid d tr.misses).dropCp t c tid)
        ∧ go (.stat d h .collisions) = .next ((s.returnX t c tid d tr.collisions).dropCp t c tid)
        ∧ go (.stat d h .evictions) = .next ((s.returnX t c tid d tr.evictions).dropCp t c tid))
      ∧ ∀ d run peek, run.length < tr.g → ∃ s', go (.find d h run peek) = .next s'
        ∧ ((s.ctxAt t c).task.map (·.tid) = some tid → (s'.ctxAt t c).regs.x d =
          if d = 0 then 0 else lanternWord n.depth 0 (nodeHandle n.tree slot (s.lantern.gen slot)))
        ∧ at_ s' slot = some { n with holds := if peek || decide (65535 ≤ n.holds) then n.holds else n.holds + 1 }
        ∧ (∀ i, i ≠ slot → at_ s' i = at_ s i) ∧ s'.lantern.trees = s.lantern.trees)

/-- Collectives: members that ask for different things fail at the match with a record and the command gone; a match
that holds reads the source and starts; a member's data joins once, as does the sum of a segment, the sum before it or the
result where this member hears it, and a message whose tag fails ends a matched collective; with all its data there, or with
the result that messages of sums have brought, the result stands at a destination bay. A roster comes into force behind the
ones before it, at once or by the group's home, and a key with its group (R262 to R264, R269 to R272, R275). The order of a
switch's sum is free (log 72), and how sums travel between the members is the model's reading (log 100). -/
def Obligations.CollectivesRun : Prop :=
  ∀ (s : State) (p : PartNo) (grp : BitVec 16) (seq : Nat) (o : Coll) (g : Group) (r : Roster) (k : Cmd)
    (q : CollKind × CollCtl × Nat), s.coll? p grp seq = some o → s.group? p grp = some g → g.rosterAt seq = some r →
    (s.tile o.tile).cmd? o.cmd = some k → k.coll = some q →
    let m := r.members.length
    let z := CollType.bytes o.offer.dt
    let n := CollOffer.srcCount o.offer m g.rank * z
    let bay := if n = 0 ∨ q.2.1.sbay = false then none else (bayLoc o.tile k.ops[1]).map (·.1)
    let k1 := { k with srcBay := bay }
    let s0 := (s.onTile o.tile fun x => x.onCmd k.id fun k => { k with srcBay := bay }).exposeSource o.tile k1
    let x := s.ctxAt o.tile k.ctx
    let fails := fun (ev : Instr) => ∃ s', exec ev s = .next s' ∧ (s'.tile o.tile).cmd? o.cmd = none
      ∧ (x.runs k.tid = true → x.dq.length < 32 →
        (s'.ctxAt o.tile k.ctx).dq = x.dq ++ [defRec 17 0xBC k.slot k.ops[1]])
    (∀ offers, o.matched = false → s.anyFlip o.tile = false → s.collTurn o = true →
      offers.map (·.1) = (List.range m).filter (· != g.rank) →
      g.counter + CollOffer.mostMsgs o.offer m < 2 ^ 64 →
      let ev := Instr.collectiveMatch p grp seq offers
      let same := (∀ e ∈ offers, CollOffer.agrees o.offer e.2 = true)
        ∧ (o.offer.op = .bcast → o.offer.root.toNat < m)
      (¬ same → fails ev) ∧ (same → s.memberLost r = true → fails ev)
      ∧ ∀ src a, same → s.memberLost r = false →
        (if n = 0 then .ok ([], false) else s0.srcRead o.tile k1 (if q.2.1.sbay then .bay else .global) k.ops[1] 0 n) = .ok src →
        (s0.tile o.tile).place o.tile (if q.2.1.dbay then .bay else .global) k.ops[2] 0 (CollOffer.dstCount o.offer m * z)
          = some a →
        (q.2.1.dbay = false → s0.storeErr p [(a, List.replicate (CollOffer.dstCount o.offer m * z) 0)] = none) →
        ∃ s' j, exec ev s = .next s' ∧ (s'.tile o.tile).cmd? o.cmd = some j ∧ j.stat = .started ∧ j.buf = [(a, src.1)]
          ∧ { o with matched := true } ∈ s'.colls)
    ∧ (∀ rank xs, rank ≠ g.rank → rank < m → o.matched = true →
      (xs.length = o.offer.n → (∀ e ∈ o.inputs, e.1 ≠ rank) →
        ∃ s', exec (.collectiveMessageArrival p grp seq rank (.data xs)) s = .next s'
          ∧ { o with inputs := o.inputs ++ [(rank, xs)] } ∈ s'.colls)
      ∧ fails (.collectiveMessageArrival p grp seq rank .badTag))
    ∧ (∀ st xs rank, o.matched = true → CollOffer.reduces o.offer = true → o.part? st = none →
      Roster.hearsPart r g.rank rank st = true → xs.length = CollOffer.srcCount o.offer m g.rank →
      ∃ s', exec (.collectiveMessageArrival p grp seq rank (.part st xs)) s = .next s'
        ∧ { o with parts := o.parts ++ [(st, xs)] } ∈ s'.colls)
    ∧ (∀ l own, Roster.forms r g.rank = false → o.parts = [(.total, l)] → o.total r g.rank own = some l)
    ∧ (∀ l own, Roster.forms r g.rank = true → Roster.segIndex r g.rank ≠ 0 →
      CollSeg.many (Roster.segOf r g.rank) = false → o.parts = [(.acc, l)] → o.total r g.rank own =
        some ((List.zipWith (fun x y => (fAdd FpCtl.engine x y).1) l (own.map (CollType.widen o.offer.dt))).map
          (CollType.narrow o.offer.dt)))
    ∧ (∀ b a bs, s.collReady o r g.rank = true → k.poison = false → k.crcBad = false → k.bar = none → k.tiles = [] →
      k.corrupt = false → s.anyFlip o.tile = false → s.spTick o.tile ≤ s.now → q.2.1.dbay = true →
      k.dstBay = some b → k.buf = [(a, bs)] → Mem.wf (s.tile o.tile).sp = true →
      let y := (s.tile o.tile).bay b
      let own := ownPart o.offer g.rank (elemsOf z bs)
      let data := fun (i : Nat) => if i = g.rank then own else ((o.inputs.find? fun e => e.1 == i).map (·.2)).getD []
      let stands := fun (all : List HWord) => ∃ s', exec (.collectivePublish p grp seq) s = .next s'
        ∧ (s'.tile o.tile).cmd? o.cmd = none ∧ ∀ i, Mem.read (s'.tile o.tile).sp i =
          (lastByte [(y.start_ y.shadow + a, all.flatMap fun w => bytesOfNat z w.toNat)] i).getD
            (Mem.read (s.tile o.tile).sp i)
      (o.parts = [] → stands (CollOffer.result o.offer r s.freeCtr data))
        ∧ ∀ l, o.total r g.rank (elemsOf z bs) = some l → stands (ownPart o.offer g.rank l))
    ∧ (∀ r2 old, g.rosters = old :: g.rosters.tail → r2.epoch = old.epoch + 1 →
      (∀ e ∈ s.colls, e.part = p → e.group = grp → e.matched = true → e.seq < r2.fence) → r2.members ≠ [] →
      r2.members.length ≤ 64 → r2.switches.length ≤ 64 →
      (∃ s', exec (.rosterInstall p grp r2) s = .next s'
        ∧ (s'.group? p grp).map (·.rosters) = some (r2 :: g.rosters))
      ∧ (g.rank = 0 → exec (.securedSessionEnd p grp r2) s = exec (.rosterInstall p grp r2) s)
      ∧ (g.rank ≠ 0 → exec (.securedSessionEnd p grp r2) s = .next s))
    ∧ ∀ w rank key, w.extractLsb' 0 16 = grp → ∃ s', exec (.sessionKeyDelivery p w rank key) s = .next s'
      ∧ s'.group? p grp = some { g with handle := w, rank := rank, key := key, counter := 0 }

/-! ### Tasks, queues and launches (R117 to R127, R312, R343 to R361) -/

/-- The hub's steps for tasks: a deferred fault joins its context's queue of 32 or is counted lost; a decrement lowers a
waiting task's counter, makes it ready at 0, and below 0 leaves the table as it is; a spawned task's descriptor and words are
filed, or its slot freed; a signal's value rises and exactly the waiters it meets are enqueued DONE; a registration whose
object is gone, or whose list is full, ends in FAULT, one already met in DONE, and any other joins the object's list of
waiters at its end; a timer that is due leaves the wheel with its signal on the way; a context that has wound down is free
with its registers and result tiles as the task left them, its continuation on the way to its object (R117, R118, R120 to
R126, R312). That a step at a page under a flip looks again later, and that a barrier's list is bounded as a signal
object's, is the model's reading (log 16, log 21). -/
def Obligations.TaskSteps : Prop :=
  ∀ (s : State) (t : TileNo) (c : CtxNo) (tid : Nat) (p : PartNo), let x := s.ctxAt t c
    let task := fun (s : State) (i : Nat) => Map.get? (s.part p).tasks i
    let ready := fun (s : State) (i : Nat) => (s.cont? p i).bind (·.ready)
    (∀ r, x.runs tid = true → ∃ s', exec (.deferredFaultArrival t c tid r) s = .next s' ∧ SameMemory s s'
      ∧ (s'.ctxAt t c).dq = (if x.dq.length < 32 then x.dq ++ [r] else x.dq)
      ∧ (s'.ctxAt t c).dovf = if x.dq.length < 32 then x.dovf else min 255 (x.dovf + 1))
    ∧ (∀ i g w n, task s i = some ⟨g, some (.spawn w)⟩ → i < 16384 → w.running = false → w.readyAt = none →
      let ev := Instr.taskTableStep t c tid p (BitVec.ofNat 64 (handleOf i g)) n
      (n ≤ w.counter → ∃ s' v, exec ev s = .next s' ∧ task s' i = some ⟨g, some (.spawn v)⟩
        ∧ v.counter = w.counter - n
        ∧ v.readyAt = if w.counter = n ∧ w.desc.isSome = true then some s.now else none)
      ∧ (w.counter < n → ∃ s', exec ev s = .next s' ∧ task s' i = task s i))
    ∧ (∀ i g w, task s i = some ⟨g, some (.spawn w)⟩ → w.desc = none →
      let s0 := (s.handOff t c .part).dropCp t c tid
      let ev := Instr.tspawnCheck t c tid p i g
      (∀ d ws, s0.readDesc p w.descAddr = .ok d → s0.readWords p w.wordsAddr = some ws →
        ∃ s' v, exec ev s = .next s' ∧ task s' i = some ⟨g, some (.spawn v)⟩ ∧ v.desc = some d ∧ v.words = ws
          ∧ v.counter = w.counter)
      ∧ ∀ e, s0.readDesc p w.descAddr = .error e → ∃ s', exec ev s = .next s' ∧ task s' i = some ⟨g + 1, none⟩)
    ∧ (∀ a v src, MemsWf s →
      let s1 := match src with
        | .tsig u d n => (s.handOff u d .part).dropCp u d n
        | .timer u d => s.handOff u d .part
        | .queue _ _ => s
      (s.flipping p (a.toNat, 16) = true → exec (.signalStep src p a v) s =
        .next (s.awaitFlip (signalKey src) (.signalStep src p a v)))
      ∧ (∀ h, s.flipping p (a.toNat, 16) = false → s1.signalHome p a = .ok h → s1.lost h = false →
        let s0 := s1.makeSync p a.toNat h none
        let w := s0.readQ (h.add 8)
        ∃ s', exec (.signalStep src p a v) s = .next s' ∧ s'.readQ h = s0.readQ h + v
          ∧ ∀ i ∈ s0.chain p (sigWhead w) (sigWcnt w), ∀ k, s0.cont? p i = some k →
            ready s' i = if k.threshold.toNat ≤ (s0.readQ h + v).toNat then some (0, s.now) else k.ready)
      ∧ ∀ e, s.flipping p (a.toNat, 16) = false → s1.signalHome p a = .error e →
        exec (.signalStep src p a v) s = .next (match src with
        | .tsig u d n => s1.arrive u d n (defRec e 0x12 none a)
        | _ => s1))
    ∧ (∀ i k obj arg, s.cont? p i = some k →
      let ev := fun (bar : Bool) => Instr.waitRegistration t c p i bar obj arg
      let reg := fun (bar : Bool) (st : Nat) => ∃ s', exec (ev bar) s = .next s' ∧ ready s' i = some (st, s.now)
      let joins := fun (bar : Bool) (s1 : State) (ws : List Nat) (g : State → Prop) =>
        ws.Nodup → (∀ j ∈ ws, (s1.cont? p j).isSome = true) → ∃ s', exec (ev bar) s = .next s' ∧ g s'
          ∧ s'.chain p (ws.headD 0) ws.length = ws ∧ ready s' i = k.ready
      let still := s.flipping p (obj.toNat, 16) = false
      (¬ still → exec (ev false) s = .next (s.awaitFlip (orderKey t c) (ev false)))
      ∧ (∀ e, still → s.signalHome p obj = .error e → reg false 2)
      ∧ (∀ h, still → s.signalHome p obj = .ok h →
        let s0 := s.makeSync p obj.toNat h none
        let w := s0.readQ (h.add 8)
        let ws := s0.chain p (sigWhead w) (sigWcnt w) ++ [i]
        (arg.toNat ≤ (s0.readQ h).toNat → reg false 0)
        ∧ ((s0.readQ h).toNat < arg.toNat → 4095 ≤ sigWcnt w → reg false 2)
        ∧ ((s0.readQ h).toNat < arg.toNat → sigWcnt w < 4095 → MemsWf s → s.lost h = false → joins false s0 ws fun s' =>
          s'.readQ (h.add 8) = sigWaiters w ws.length (ws.headD 0) ∧ s'.readQ h = s0.readQ h
            ∧ (s'.cont? p i).map (·.threshold) = some arg))
      ∧ (s.barRefBy p t c obj = none → reg true 2)
      ∧ ∀ u n o, s.barRefBy p t c obj = some (u, n, o) → let q := s.barTurn u o (orderKey t c)
        let s0 := q.2.readExposes u (if u = t then some c else none) o 16
        let b := s0.bar u o
        let ws := s0.chain p (barWhead b) (barWcnt b) ++ [i]
        q.1 ≤ s.now → (barGen b ≠ arg.toNat % 16 → reg true 0)
          ∧ (barGen b = arg.toNat % 16 → 4095 ≤ barWcnt b → reg true 2)
          ∧ (barGen b = arg.toNat % 16 → barWcnt b < 4095 → MemsWf s → joins true s0 ws fun s' =>
            s'.bar u o = barSet (barSet b 92 12 ws.length) 68 24 (ws.headD 0)))
    ∧ (∀ i k, Map.get? (s.part p).timers i = some k → k.deadline ≤ s.time →
      (s.ctxAt k.tile k.ctx).storeBefore k.after = false → ∃ s', exec (.timerDeadline p i) s = .next s'
      ∧ (s'.part p).timers = Map.erase (s.part p).timers i
      ∧ s'.due (.signalStep (.timer k.tile k.ctx) p k.obj k.addend))
    ∧ (s.woundDown t c = false → exec (.windDownComplete t c) s = .next s)
    ∧ (s.woundDown t c = true → ∃ s', exec (.windDownComplete t c) s = .next s'
      ∧ s'.ctxAt t c = { Ctx.start with
        ints := x.ints, rts := x.rts, regs := { x.regs with vmap := Vector.replicate 32 .unmapped } }
      ∧ ∀ w q, x.endWait = some (some w) → s.partOf t = some q →
        s'.due (.waitRegistration t c q w.idx w.bar w.obj w.arg))

/-- From ready entry to issue and back: a free context takes the entry chosen for it, with the registers a continuation
or a spawned task starts with; a continuation's context is bound with a segment entry, a loaded image lets its contexts
go on; a pre-empted context is saved whole and free, and comes back bound; a launch that is complete leaves its slot,
its queue, its bays and its banks (R33, R118, R317, R353 to R361). Which bank and which record are the model's choice
(log 40, log 58). -/
def Obligations.Scheduling : Prop :=
  ∀ (s : State) (t : TileNo) (c : CtxNo) (p : PartNo) (k : Task), s.partOf t = some p → let x := s.ctxAt t c
    let task := fun (s : State) (i : Nat) => Map.get? (s.part p).tasks i
    let open_ := x.run = .free ∧ ((s.tile t).power = .run ∨ (s.tile t).power = .idle) ∧ (s.tile t).quarantined = false
      ∧ (s.part p).paused = false ∧ (s.part p).live = true ∧ s.pkg.state = .run
    let chosen := fun (g : Regs → Prop) => ∃ s', exec (.selection t c) s = .next s' ∧ s'.due (.binding t c)
      ∧ (s'.ctxAt t c).run = .selected ∧ g (s'.ctxAt t c).regs
    (∀ e i w, open_ → s.choose p t c = some e → e.kind = .cont i → s.cont? p i = some w →
      chosen fun g => g.pc = w.resume ∧ g.fpctl = w.fpctl ∧ g.stky = w.stky
        ∧ g.x w.status = if w.status = 0 then 0 else BitVec.ofNat 64 ((w.ready.map (·.1)).getD 0))
    ∧ (∀ e i g w d, open_ → s.choose p t c = some e → e.kind = .spawn i → task s i = some ⟨g, some (.spawn w)⟩ →
      w.desc = some d → chosen fun g => g.pc = BitVec.ofNat 64 d.entry
        ∧ ∀ j : Fin 8, g.x (Fin.ofNat 32 (j.val + 1)) = w.words[j])
    ∧ (x.run = .selected → x.task = some k → s.comesBack p x k = true → s.pkg.state = .run →
      (∀ e ∈ (s.part p).saves, e.2.taken = true → e.2.task.tid ≠ k.tid) → (s.tile t).bankLost x.bank = false →
      (s.tile t).bankBarred x.bank k.tid = false → ((s.tile t).banks[x.bank]).loading = false →
      ∃ s', exec (.binding t c) s = .next s' ∧ (s'.ctxAt t c).run = .bound ∧ (s'.ctxAt t c).seg = x.seg + 1)
    ∧ (∀ bank key code bs, let n : Fin 2 := if bank then 1 else 0
      let b := (s.tile t).banks[n]
      let loads := fun (d : CtxNo) => (s.ctxAt t d).run == .loading && (s.ctxAt t d).bank == n
      let size := ((allCtxs.filter loads).filterMap fun d => (s.ctxAt t d).task.map (·.codesz)).headD 0
      b.loading = true → b.image = some (key, code) → s.hubRead p code size = some bs → s.hubPoison p code size = false →
      ∃ s', exec (.bankLoadComplete t bank) s = .next s' ∧ ((s'.tile t).banks[n]).loading = false
        ∧ ((s'.tile t).banks[n]).mem = Mem.writeBytes b.mem 0 bs
        ∧ (s.pkg.state = .run → ∀ d, loads d = true → (s'.ctxAt t d).run = .bound ∨ (s'.ctxAt t d).run = .restoring))
    ∧ (x.run = .bound → s.preempts t c = true →
      ∃ s', exec (.preemption t c) s = .next s' ∧ (s'.ctxAt t c).run = .saving ∧ (s'.ctxAt t c).regs = x.regs)
    ∧ (∀ n i, x.run = .saving → x.task = some k → (∀ e ∈ x.segs, e.committed = true) → x.hold = [] →
      s.saveRoom p k = some (n, i) → ∃ s' v, exec (.preemption t c) s = .next s'
        ∧ Map.get? (s'.part p).saves i = some v ∧ v.ctx = x ∧ v.task = k ∧ v.recNo = n ∧ v.taken = false
        ∧ s'.ctxAt t c = Ctx.start)
    ∧ (∀ i v, x.run = .restoring → x.task = some k → s.pkg.state = .run →
      (s.part p).saves.find? (fun e => e.2.taken && e.2.task.tid == k.tid) = some (i, v) →
      ∃ s', exec (.restore t c) s = .next s' ∧ (s'.ctxAt t c).run = .bound ∧ (s'.ctxAt t c).task = some k
        ∧ (s'.part p).saves = Map.erase (s.part p).saves i)
    ∧ exec (.quantumExpiry t c) s =
      .next (if s.quantumDue t c then s.onCtx t c fun x => { x with preempt := true } else s)
    ∧ ∀ i g l f q, task s i = some ⟨g, some (.launch l)⟩ → l.waiting = false → s.ownerBusy p (handleOf i g) = false →
      l.origin = .queue f q → ∃ s', exec (.launchComplete p i) s = .next s' ∧ task s' i = some ⟨g + 1, none⟩
        ∧ (i, g) ∉ (s'.queue f q).open_ ∧ ∀ u, s.partOf u = some p →
          (∀ n : BayNo, ((s'.tile u).bay n).launch ≠ some (handleOf i g))
          ∧ ∀ b : Fin 2, (((s'.tile u).banks[b]).image.map (·.1)) ≠ some (handleOf i g)

/-- The queues: the command at the head of the queue that is served is performed and HEAD passes it, a LAUNCH filed with
what its descriptor says, its words, its root ranges and the tiles of WAKE on their way to RUN, a FENCE leaving FIDX at
the new HEAD; an entry in error stops its queue; a WAITS that is not met is read again. A launch with a prologue starts
the engine, whose EMIT files one more launch, whose DONE and CANCEL end it, and whose end lets HEAD pass. Writes of
QTAIL and QCFG reach a queue that hears them, one that enables it but in ERROR. A release of the time table that is due
sets BUSY and waits to be accepted, or HELD, or counts a skip, and NEXT goes on by PERIOD, or EN falls (R249, R343 to
R352, R363, R364, R378). The prologue engine's corners are the model's choice (log 62), as is that releases which wait
are accepted first (log 63) and which free slot a launch takes (log 76). -/
def Obligations.QueuesServe : Prop :=
  ∀ (s : State) (f : FuncNo) (q : QueueNo) (p : PartNo) (k : QCmd) (v : Word),
    let x := s.queue f q
    let passes := fun (ev : Instr) => ∃ s', exec ev s = .next s' ∧ (s'.queue f q).head = x.head + 1
    (∀ s0, s0 = s.rereadAll f p → (s.func f).part = some p → s0.pickQueue f p = some q →
      (s0.frontOf f q = .cmd k → k.op = 0 → passes (.queueNop f q))
      ∧ ∀ code tag, s0.frontOf f q = .bad code tag → ∃ s', exec (.queueNop f q) s = .next s'
        ∧ (s'.queue f q).state = .error ∧ (s'.queue f q).ecode = BitVec.ofNat 8 code ∧ (s'.queue f q).head = x.head)
    ∧ (∀ d i, s.serving f q 1 = some (p, k) → k.pro = false → (s.served f q).readDesc p k.addr1.toNat = .ok d →
      s.freeSlot p = some i → ∃ s' l, exec (.launch f q) s = .next s' ∧ (s'.queue f q).head = x.head + 1
        ∧ Map.get? (s'.part p).tasks i = some ⟨s.slotGen p i, some (.launch l)⟩ ∧ l.desc = d ∧ l.words = k.words
        ∧ l.total = d.total ∧ l.origin = .queue f q ∧ (i, s.slotGen p i) ∈ (s'.queue f q).open_
        ∧ l.descAddr = k.addr1.toNat ∧ l.readyAt = s.now ∧ l.noMore = false ∧ l.tag = k.tag
        ∧ (let woken := (s.tilesOf p).filter fun u => d.wake.getLsbD u.val
          let dies := (woken.map fun u => u.val / 40).eraseDups
          let nd := d.dext.foldl (· * ·) 1
          (d.dext = [] → l.ranges = [⟨0, d.total, none, none⟩])
          ∧ (d.dext ≠ [] → l.ranges = (List.range nd).map fun j => ⟨j * (d.total / nd), (j + 1) * (d.total / nd),
            if dies = [] then none else some (dies.getD (j % dies.length) 0), none⟩)
          ∧ ∀ u ∈ woken, (s.tile u).quarantined = false → (s.tile u).power = .off ∨ (s.tile u).power = .idle →
            (s'.tile u).power = .waking ∧ s'.due (.tileWake u)))
    ∧ (∀ a d, s.readDesc p a = .ok d → ∃ hd bays, s.hubRead p a 128 = some hd
      ∧ s.hubRead p (a + 128) (8 * leAt hd 21 1) = some bays ∧ a % 64 = 0
      ∧ (let bs := hd ++ bays
        let field := leAt bs
        let levels := fun (kind : Nat) => (((List.range 6).map fun i => field (64 + 8 * i) 8).filter fun w =>
          w / 2 ^ 62 == kind).map fun w => w % 2 ^ 24
        d.code = field 0 8 ∧ d.codesz = field 8 4 ∧ d.entry = field 12 2 ∧ d.resumable = (field 14 1).testBit 0
        ∧ d.mcode = (field 14 1).testBit 1 ∧ d.prio = BitVec.ofNat 3 (field 15 1) ∧ d.mramoff = field 16 4
        ∧ d.ctxmax = field 20 1 ∧ d.fifo = BitVec.ofNat 3 (field 22 1) ∧ d.wake = BitVec.ofNat 160 (field 32 20)
        ∧ d.dext = levels 3 ∧ d.sext = levels 2 ∧ d.total = d.dext.foldl (· * ·) 1 * d.sext.foldl (· * ·) 1
        ∧ d.bays.length = field 21 1 ∧ ∀ j b, d.bays[j]? = some b → let w := field (128 + 8 * j) 8
          b.num.val = w / 2 ^ 32 ∧ b.own.toNat = w / 2 ^ 28 % 16 ∧ b.keep = w.testBit 27 ∧ b.sync = w.testBit 26
          ∧ b.shadow = w.testBit 25 ∧ b.size.toNat = w / 2 ^ 12 % 2 ^ 12 ∧ b.base.toNat = w % 2 ^ 12))
    ∧ (∀ bs, s.serving f q 1 = some (p, k) → k.pro = true → s.prologue = none → k.addr2.toNat % 256 = 0 →
      (s.served f q).hubRead p k.addr2.toNat 1024 = some bs → ∃ s' r, exec (.launch f q) s = .next s'
        ∧ s'.prologue = some r ∧ r.func = f ∧ r.origin = .queue f q ∧ s'.due (.prologue f)
        ∧ (s'.queue f q).head = x.head)
    ∧ (s.serving f q 2 = some (p, k) → s.canWrite p k.addr1.toNat 8 = true →
      ∃ s', exec (.fence f q) s = .next s' ∧ (s'.queue f q).head = x.head + 1 ∧ (s'.queue f q).fidx = x.head + 1)
    ∧ (s.serving f q 3 = some (p, k) → (s.waitsRead p k.addr1).isSome = true →
      passes (.waits f q) ∧ passes (.waitsReread f q))
    ∧ ((s.func f).part = some p → s.frontOf f q = .cmd k → k.op = 3 → s.waitsMet p k = false →
      exec (.waitsReread f q) s = .next (s.rereadLater f q))
    ∧ (∀ s1, s.serving f q 4 = some (p, k) → (s.served f q).signalAt p k.addr1 k.addr2 = .ok s1 → passes (.signal f q))
    ∧ (s.hears f = true → ∃ s', exec (.qtail f q v) s = .next s'
      ∧ s'.queue f q = { x with tail := v.extractLsb' 0 32 })
    ∧ (s.hears f = true → ¬ (s.pkg.gondola = .recovery ∧ v.getLsbD 8 = true) →
      ¬ ((s.func f).isLocked = true ∧ x.relocates v = true) →
      ∃ s', exec (.qcfg f q v) s = .next s'
        ∧ s'.queue f q = x.configure (if (s.func f).tdisp = .error then v &&& ~~~(0x100 : Word) else v))
    ∧ (s.hears f = false → exec (.qtail f q v) s = .next s ∧ exec (.qcfg f q v) s = .next s)
    ∧ (∀ g, s.prologue = some g → g.func = f → g.ended = true → g.fault = false → g.origin = .queue f q →
      x.state = .running → ∃ s', exec (.prologue f) s = .next s' ∧ s'.prologue = none
        ∧ (s'.queue f q).head = x.head + 1)
    ∧ (∀ g d i, s.prologue = some g → g.emits < 64 → g.ctx.regs.x 9 = 0 → s.readDesc g.part g.descAddr = .ok d →
      d.total < 2 ^ 32 → s.freeSlot g.part = some i →
      let files := fun (ev : Instr) (ended : Bool) => ∃ s' r l, exec ev s = .next s' ∧ s'.prologue = some r
        ∧ r.emits = g.emits + 1 ∧ r.ended = ended
        ∧ Map.get? (s'.part g.part).tasks i = some ⟨s.slotGen g.part i, some (.launch l)⟩ ∧ l.desc = d
        ∧ ∀ j : Fin 8, l.words[j] = if j.val < 6 then g.ctx.regs.x (Fin.ofNat 32 (j.val + 1)) else g.words[j]
      files .emit g.ended ∧ files .done true)
    ∧ (∀ g, s.prologue = some g → exec .cancel s =
      .next ((s.dropHolds g.part g.holds).onPrologue fun g => { g with ended := true, holds := [] }))
    ∧ (∀ e bs, e ≠ 0 → s.gondolaServes (s.funcOf p) p = true →
      let s1 := s.ttAccept p (s.part p).ttOpen
      s1.ttDue p e = some bs → exec (.ttRelease p e) s = .next (s1.ttFire p e bs))
    ∧ ∀ e pa, e ≠ 0 → s.gondolaServes (s.funcOf p) p = true → (s.part p).ttOpen = [] → MemsWf s →
      let a := (s.part p).ttab + 64 * e.val
      let field := fun o n => Mem.readNat s.dram (pa + o) n
      let ctl := Mem.read s.dram (pa + 24)
      let next := field 0 8
      let period := field 8 8
      (∀ o < 64, s.translate p (a + o) false = .ok (.dram (pa + o)) ∧ s.translate p (a + o) true = .ok (.dram (pa + o))) →
      ctl.getLsbD 0 = true → next ≤ s.time →
      let frees := ctl.getLsbD 6 = false
      let holds := ctl.getLsbD 6 = true ∧ ctl.getLsbD 1 = true ∧ ctl.getLsbD 5 = false
      let set := if frees then 0x40 else if holds then 0x20 else 0
      ∃ s', exec (.ttRelease p e) s = .next s'
        ∧ holdsNat s'.dram pa 8 (if period = 0 then next else next + period)
        ∧ Mem.read s'.dram (pa + 24) = (ctl ||| set) &&& (if period = 0 then 0xFE else 0xFF)
        ∧ holdsNat s'.dram (pa + 28) 4 (if frees ∨ holds then field 28 4 else min (field 28 4 + 1) (2 ^ 32 - 1))
        ∧ (∀ i, ¬ (pa ≤ i ∧ i < pa + 8) → i ≠ pa + 24 → ¬ (pa + 28 ≤ i ∧ i < pa + 32) →
          Mem.read s'.dram i = Mem.read s.dram i)
        ∧ (s'.part p).ttOpen = (if frees then [e] else []) ∧ (frees → s'.due (.ttRelease p e))

/-! ### Power, levels and time (R138, R325 to R329, R362, R384 to R399) -/

/-- PWRQ traps above 7, and else answers 1 below the fused level, 2 above the budget or while the package is throttled,
and 0 with the request standing. A quiet tile goes idle, off after its delay, and to RUN by its wake; levels move a step
at a time under a throttle, at most one in 10 µs, and in recovery, and to the level wanted else, downward as the change
begins and upward as it ends; the cluster's counters join its ring (R138, R384, R386 to R391). When a level change takes
effect within its bounds, and that a reinstatement outside package RUN does nothing, is the model's reading (log 53,
log 91). -/
def Obligations.PowerSteps : Prop :=
  ∀ (s : State) (t : TileNo) (k : ClusterNo) (p : PartNo) (d a : XReg) (l : Fin 8) (ns : Nat),
    let x := s.tile t
    let v := (s.x a).toNat
    let m := clusterOf s.curTile
    let low := v < (Config.fusedLevel m).val
    let high := (s.clusters[m]).bl.val < v ∨ (s.pkg.throttled = true ∧ (s.clusters[m]).level.val < v)
    let asked := (s.onCx fun x => { x with dvfs := some (Fin.ofNat 8 v) }).relevel m
    (s.ready (.pwrq d a) = true → exec (.pwrq d a) s = .next (if 7 < v then s.trapCur .illegalOperand
      else if low then s.flyX 2 d 1 else if high then s.flyX 2 d 2 else asked.flyX 2 d 0))
    ∧ (x.power = .run → x.quiet = true → 64 ≤ x.idleClocks → ∃ s', exec (.tileIdle t) s = .next s'
      ∧ s'.tile t = { x with power := .idle, idleSince := s.now } ∧ s'.due (.offDelay t))
    ∧ (x.power = .idle → x.idleSince + s.offTicks t ≤ s.now → s.mayOff t = true →
      ∃ s', exec (.offDelay t) s = .next s' ∧ (s'.tile t).power = .goingOff false ∧ (s'.tile t).sp = []
        ∧ (s'.tile t).l1 = [] ∧ s'.due (.offDelay t))
    ∧ (x.power = .goingOff false → x.idleSince + nanos 600 ≤ s.now →
      ∃ s', exec (.offDelay t) s = .next s' ∧ (s'.tile t).power = .off ∧ (s'.tile t).cycle = 0
        ∧ (s'.tile t).banks = Vector.replicate 2 Bank.start)
    ∧ (x.power = .waking → ∃ s', exec (.tileWake t) s = .next s' ∧ (s'.tile t).power = .run
      ∧ (s'.tile t).nextAt = s.now + s.tilePeriod t)
    ∧ (x.holdUntil ≤ s.now → ∃ s', exec (.tilewkHoldExpiry t) s = .next s' ∧ s'.tile t = { x with holdUntil := 0 })
    ∧ exec (.tileReinstate t) s =
      .next (if s.pkg.state = .run then s.onTile t fun x => { x with quarantined := false } else s)
    ∧ (∀ w, (s.clusters[k]).change = some w → ∃ s', exec (.levelChangeComplete k) s = .next s'
      ∧ (s'.clusters[k]).level = if (s.clusters[k]).lowers then (if w = 0 then 0 else w - 1)
        else if w ≤ s.wantedLevel k then w else s.wantedLevel k)
    ∧ (∃ s', exec (.throttleStep true) s = .next s' ∧ s'.pkg.throttled = true
      ∧ ((∀ n, s.pkg.lowered = some n → n + nanos 10000 ≤ s.now) → s'.pkg.lowered = some s.now
        ∧ ((s.clusters[k]).change.isSome = true → (s'.clusters[k]).lowers = true)
        ∧ ((s.clusters[k]).level ≠ 0 → (s.clusters[k]).change = none →
          (s'.clusters[k]).change = some ((s.clusters[k]).level - 1)
            ∧ (s'.clusters[k]).level = (s.clusters[k]).level - 1))
      ∧ ∀ n, s.pkg.lowered = some n → s.now < n + nanos 10000 → s'.clusters = s.clusters)
    ∧ (s.pkg.throttled = true → ∃ s', exec (.throttleStep false) s = .next s' ∧ s'.pkg.throttled = false
      ∧ s'.pkg.recovering = true ∧ s'.due .levelRecoveryStep)
    ∧ (s.pkg.throttled = false → ∃ s', exec .levelRecoveryStep s = .next s'
      ∧ ((s.clusters[k]).level < s.wantedLevel k → (s.clusters[k]).change = none →
        (s'.clusters[k]).change = some ((s.clusters[k]).level + 1) ∧ s'.due .levelRecoveryStep))
    ∧ (∃ s', exec .clusterCounterSample s = .next s' ∧ s'.due .clusterCounterSample
      ∧ (s'.clusters[k]).samples = ((s.clusters[k]).samples ++ [((s.clusters[k]).crun, (s.clusters[k]).cstall)]).drop
        ((s.clusters[k]).samples.length - 255))
    ∧ (∃ s', exec (.defaultLevelSet k l) s = .next s'
      ∧ (s'.clusters[k]).dl = if l < Config.fusedLevel k then (s.clusters[k]).dl else l)
    ∧ (∃ s', exec (.budgetLevelSet k l) s = .next s' ∧ (s'.clusters[k]).bl = l)
    ∧ (2000 ≤ ns → ns ≤ 1000000 → ∃ s', exec (.offDelaySet p ns) s = .next s' ∧ (s'.part p).offDelay = ns
      ∧ s'.tiles = s.tiles ∧ ∀ u, s.partOf u = some p → (s.tile u).power = .idle → s'.due (.offDelay u))
    ∧ (ns < 2000 ∨ 1000000 < ns → exec (.offDelaySet p ns) s = .next s)

/-- A power loss: detection puts the package into its hold-up, and a context at a boundary 2 µs on is saved and stopped with
its commands gone. A forced save keeps the context as it stood, its array operations as matrix records with their tiles back
at the shadows, its commands and its results in flight as latches, and a trap that its bundle raised is entered first. At
the end the package is off with its volatile memory empty. Power comes back through BOOT to RUN, or to RECOVERY where
firmware fails, and a new image leads back to BOOT; a partition whose records hold is restored, each context with its
registers, operations and commands, each KEEP bay with its bytes, and any other discards its records and posts event 0x003
to its host ring, or stays FAULTED until it can. FREEZE and its release stop and start the clocks, and a checkpoint pauses
its partitions and lets them go (R325, R326, R329, R392, R393, R397, R398, R447). The corners of the sweep, of a freeze and
of a checkpoint are the model's (log 34, log 35, log 66). -/
def Obligations.PowerLoss : Prop :=
  ∀ (s : State) (t : TileNo) (c : CtxNo) (p : PartNo) (v : BootVerdict) (ps : BitVec 40) (stay : Bool),
    let x := s.ctxAt t c
    let pending := fun (ev : Instr → Bool) => s.agenda.any fun d => ev d.ev
    let now := (s.tile t).cycle
    let gone := x.mops.filter MatOp.isArray
    let asked := s.forceDue = true ∧ (s.atBoundary t c = true ∨ x.run = .halted)
    let saves := fun (g : State → CtxSave → Prop) => ∃ s' r v, exec (.forcedLatchSave t c) s = .next s'
      ∧ (s'.ctxAt t c).run = .stopped ∧ (s'.tile t).resume = some r ∧ r.ctxs[c] = some v ∧ v.was = x.run ∧ g s' v
      ∧ ∀ m ∈ (s'.tile t).cmds, Cmd.stopsWith m c ((x.task.map (·.tid)).getD 0) = false
    (asked → x.atEntry = true → saves fun _ v => v.ctx = x ∧ v.resumable = x.resumable)
    ∧ (asked → x.atEntry = false → x.afterIssue = none → saves fun s' v => v.ctx = x ∧ v.resumable = x.resumable
      ∧ v.state = 2 ∧ v.mats = gone ∧ v.stop = now
      ∧ v.cmds = ((s.tile t).cmds.filter fun k => k.stopsWith c ((x.task.map (·.tid)).getD 0))
        ++ ((s.tile t).redo.filter fun q => q.2.ctx == c).map (·.2)
      ∧ (let y := s'.ctxAt t c
        y.flight = [] ∧ y.gaccs = [] ∧ y.seg = x.seg + 1 ∧ y.mops = (x.mops.filter fun m => !m.isArray)
        ∧ y.af = gone.flatMap (·.af) ++ x.af ∧ y.bf = gone.flatMap (·.bf) ++ x.bf ∧ y.mq = gone.flatMap (·.mq) ++ x.mq
        ∧ (∀ m ∈ gone, (y.rts[m.rt]).val = (x.rts[m.rt]).shadow)
        ∧ ∃ ls, y.reinject = some ⟨((x.reinject.map (·.latches)).getD []) ++ ls, []⟩ ∧ ls.length = x.flight.length
          ∧ ∀ q ∈ ls.zip x.flight, q.1.dest = q.2.dest ∧ q.1.val = q.2.val ∧ q.1.vec = q.2.vec ∧ q.1.due = q.2.due - now))
    ∧ (∀ cause code, asked → x.atEntry = false → x.afterIssue = some (cause, code) → x.frame = none → s.frameOk t c = true →
      saves fun s' _ => (s'.ctxAt t c).frame.isSome = true ∧ (s'.ctxAt t c).regs.priv = .S
        ∧ (s'.ctxAt t c).regs.tepc = x.npc.getD x.regs.pc
        ∧ (s'.ctxAt t c).regs.tcause = BitVec.ofNat 64 (code.toNat * 2 ^ 20 + cause.code))
    ∧ (s.forceDue = false → exec (.forcedLatchSave t c) s = .next s)
    ∧ (s.pkg.state = .run → ∃ s', exec .powerFail s = .next s' ∧ s'.pkg.state = .holdUp ∧ s'.pkg.failAt = s.now
      ∧ s'.due .powerFail)
    ∧ (s.pkg.state = .holdUp → pending (· == .powerFail) = false → ∃ s', exec .powerFail s = .next s'
      ∧ s'.pkg.state = .powerOff ∧ s'.dram = [] ∧ s'.agenda = [] ∧ ∀ u, (s'.tile u).sp = [] ∧ (s'.tile u).l1 = [])
    ∧ (s.pkg.state = .powerOff → ∃ s', exec (.powerGood v) s = .next s' ∧ s'.pkg.state = .boot ∧ s'.due (.powerGood v))
    ∧ (s.pkg.state = .boot → pending (fun e => match e with | .powerGood _ => true | _ => false) = false →
      ∃ s', exec (.powerGood v) s = .next s' ∧ s'.pkg.state = if v.firmware then .run else .recovery)
    ∧ (∀ w, s.pkg.state = .recovery → s.pkg.booting = some w → (∃ s', exec (.recoveryImageWrite true) s = .next s'
      ∧ s'.pkg.state = .boot) ∧ exec (.recoveryImageWrite false) s = .next s)
    ∧ (s.pkg.state = .run → s.pkg.frozen = false → ∃ s', exec .freeze s = .next s' ∧ s'.pkg.frozen = true)
    ∧ (s.pkg.frozen = true → ∃ s', exec .freezeRelease s = .next s' ∧ s'.pkg.frozen = false ∧ s'.tiles = s.tiles
      ∧ SameMemory s s')
    ∧ ((s.part p).resume = some true → s.recordsHold p = true → (∀ u, s.partOf u = some p → (s.tile u).sweepPoison = []) →
      ∃ s', exec (.partitionResume p) s = .next s' ∧ (s'.part p).resume = none
      ∧ ∀ u r, s.partOf u = some p → (s.tile u).resume = some r →
        (∀ (d : CtxNo) (w : CtxSave), r.ctxs[d] = some w → ∀ m ∈ w.cmds, m.journalled = false) → (s'.tile u).resume = none
        ∧ (∀ (d : CtxNo) (w : CtxSave), r.ctxs[d] = some w → let y := s'.ctxAt u d
          let g := w.ctx.regs
          (s'.tile u).power = .run ∧ y.run = (if w.was = .loading ∨ w.was = .selected then .bound else w.was)
          ∧ { y.regs with vmap := g.vmap, tok := g.tok, ld := g.ld, st := g.st } = g ∧ y.task = w.ctx.task
          ∧ y.frame = w.ctx.frame ∧ y.reinject = w.ctx.reinject ∧ y.resumeAt = r.shift w.stop
          ∧ y.mops = (w.mats.map fun m => { m with admitted := r.shift m.admitted, due := r.shift m.due })
          ∧ ∀ m ∈ w.cmds, m.stat ≠ .complete → (r.shift w.first, { m with ctx := d }) ∈ (s'.tile u).redo)
        ∧ (Mem.wf (s.tile u).sp = true → r.keep ≠ [] → ∀ a < 0x540000, Mem.read (s'.tile u).sp a =
          (lastByte (r.keep.map fun q => (((s.tile u).bay q.1).base.toNat * 4096, q.2)) a).getD
            (Mem.read (s.tile u).sp a)))
    ∧ (∀ may, (s.part p).resume = some may → may = false ∨ s.recordsHold p = false →
      let f := s.funcOf p
      let y := s.func f
      let size := 2 ^ (y.evcfg.extractLsb' 0 5).toNat
      ∃ s', exec (.partitionResume p) s = .next s' ∧ (s'.part p).resume = none
        ∧ (∀ u, s.partOf u = some p → (s'.tile u).resume = none ∧ (s'.tile u).journal = none)
        ∧ (y.evcfg.getLsbD 6 = false → (s'.part p).faulted = true)
        ∧ (MemsWf s → (∀ q, (s.queue f q).state = .running → (s.queue f q).host = true) → y.evcfg.getLsbD 6 = true →
          y.evcfg.getLsbD 5 = true → (y.evtail - y.evhead).toNat < size →
          (s'.part p).faulted = false ∧ (s'.func f).evtail = y.evtail + 1
          ∧ Mem.readNat s'.host ((y.evbase.extractLsb' 12 40).toNat * 4096 + y.evtail.toNat % size * 32 + 8) 4 = 0x8003))
    ∧ ((s.part p).resume = none → exec (.partitionResume p) s = .next s)
    ∧ (s.pkg.state = .run → s.pkg.check = none → ∃ s', exec (.safeTierCheckpoint ps stay) s = .next s'
      ∧ s'.pkg.check = some (ps, stay, false) ∧ s'.due (.safeTierCheckpoint ps stay)
      ∧ (ps.getLsbD p.val = true → (s'.part p).paused = true))
    ∧ (s.pkg.state = .run → s.pkg.check = some (ps, stay, true) →
      pending (fun e => match e with | .safeTierCheckpoint .. => true | _ => false) = false →
      ∃ s', exec (.safeTierCheckpoint ps stay) s = .next s' ∧ s'.pkg.check = none
        ∧ s'.pkg.checkpoints = s.pkg.checkpoints + 1
        ∧ (stay = false → ps.getLsbD p.val = true → (s'.part p).paused = false))

/-- Ports and TIME: a partner that stops answering takes its port DOWN; the first lane to retire moves its traffic to
the spare through RETRAIN, a flit whose replay fails 8 times in a row retires its lane and no other does, and a reset
makes every lane good. An error is found from its time on; a corrected one changes no memory, and an uncorrectable
one poisons its unit. A device number is given once. TIME steps forward to its source while nothing runs or as it first
locks, and else slews towards it by at most 200 ppm without a step (R254, R257 to R260, R337, R362, R394). That TIME steps
forward where R362 says it may, that the spare is lane 8, that an error is met by the check that comes to it, and that a
failed flit counts as corrected for the PF, is the model's choice (log 6, log 16, log 64, log 95). -/
def Obligations.LinksAndTime : Prop :=
  ∀ (s : State) (q : PortNo) (lane : Fin 9) (n : Nat) (dn : BitVec 6) (time : Word), let x := s.ports[q]
    (s.pkg.state = .run → x.st ≠ .down →
      (∃ s', exec (.linkDown q) s = .next s' ∧ (s'.ports[q]).st = .down ∧ (s'.ports[q]).replays = none)
      ∧ (let s1 := fun m : Nat => s.drew.onPort q fun x => { x with replays := some (lane, m) }
        let counted := fun (r : State) => State.onFunc r 0 fun f => f.count 0
        (x.replays = none → exec (.linkCrcFail q lane) s = .next (counted (s1 0)))
        ∧ ∀ l m, x.replays = some (l, m) → exec (.linkCrcFail q lane) s = .next (counted (s1 0))
          ∨ exec (.linkCrcFail q lane) s =
            .next (counted (if 8 ≤ m + 1 then (s1 (m + 1)).retireLane q lane else s1 (m + 1)))))
    ∧ (s.pkg.state = .run → x.st = .up8 → x.retired = 0 → x.spareUsed = false →
      ∃ s', exec (.laneRetire q lane) s = .next s' ∧ (s'.ports[q]).retired = BitVec.twoPow 9 lane.val
        ∧ (s'.ports[q]).spareUsed = true
        ∧ (s'.ports[q]).st = if lane = 8 then .up8 else .retrain true)
    ∧ (∀ wide, x.st = .retrain wide → exec (.retrainComplete q) s =
      .next (s.onPort q fun x => { x with st := if wide then .up8 else .up4 }))
    ∧ (s.pkg.state = .run → ∃ s', exec (.portReset q) s = .next s' ∧ (s'.ports[q]).retired = 0
      ∧ (s'.ports[q]).spareUsed = false ∧ (s'.ports[q]).st = .retrain true)
    ∧ exec (.errorThresholdSet q n) s = .next (s.onPort q fun x => { x with threshold := n })
    ∧ exec (.dnAssignment dn) s = .next (if s.pkg.state = .run ∧ s.pkg.dn = none
      then { s with pkg := { s.pkg with dn := some dn } } else s)
    ∧ exec (.ptpSourceAssignment n) s = .next (if n ≤ 12 ∧ s.pkg.state = .run
      then { s with pkg := { s.pkg with ptpSource := some n } } else s)
    ∧ (s.pkg.state = .run → s.pkg.ptpSource = some n → ∃ s', exec (.ptpMessage n time) s = .next s'
      ∧ s'.pkg.ptpLocked = true
      ∧ if s.time < time.toNat ∧ (s.pkg.ptpLocked = false ∨ s.liveParts = []) then s'.time = time.toNat ∧ s'.slew = 0
        else s'.time = s.time ∧ s'.slew.natAbs ≤ 200 ∧ (s.time < time.toNat → 0 ≤ s'.slew)
          ∧ (time.toNat < s.time → s'.slew ≤ 0))
    ∧ (s.pkg.state = .run → (∃ s', exec .patrolScrub s = .next s' ∧ s'.due .patrolScrub
        ∧ ((∀ d ∈ s.errs, s.now < d.1) → SameMemory s s' ∧ s'.errs = s.errs))
      ∧ (∀ at_ e, s.errs = [(at_, ⟨e, true⟩)] → at_ ≤ s.now →
        ∃ s', exec .patrolScrub s = .next s' ∧ SameMemory s s' ∧ s'.poison = s.poison ∧ s'.errs = [])
      ∧ ∀ at_ u, s.errs = [(at_, ⟨.dram u, false⟩)] → at_ ≤ s.now → Map.getD s.sysCache (u / 4) false = false → ∃ s', exec .patrolScrub s = .next s'
        ∧ SameMemory s s' ∧ s'.errs = [] ∧ s'.homePoison (.dram (u * 64)) 64 = true)

/-! ### The host (R254, R255, R298, R299, R368 to R382) -/

/-- What the host does to a function: an interface is locked, started and stopped in order; a failed stream, or a write of a
locked register or of the function's configuration, leaves a locked one in ERROR with the register as it was, its queues
DISABLED and its partition reset; a reset disables its queues and ends with its registers at rest; a write to its space is
the register's own event, or the base of a queue that does not run; accesses to host and device memory change the bytes
they name, a write to a page under a flip waits for it, and a peer's access past device memory stops the machine while one
outside package RUN does nothing (R210, R255, R298, R299, R337, R370, R378, R379, R398). The fault past device memory, the
form of the inputs, which fields of a register are locked and the error that a failed stream counts are the model's choice
(log 6, log 16, log 33, log 69, log 95). -/
def Obligations.HostWrites : Prop :=
  ∀ (s : State) (f : FuncNo) (q : QueueNo) (p : PartNo) (v : Word) (a n : Nat) (bs : List Byte) (op : GatomOp),
    let x := s.func f
    let moves := fun (ev : Instr) (st : Tdisp) => ∃ s', exec ev s = .next s' ∧ (s'.func f).tdisp = st
    let write := fun (off : Nat) => exec (.registerWrite f (BitVec.ofNat 16 off) true v) s
    (s.tenant f = true → (x.tdisp = .unlocked → moves (.lockInterface f) .locked)
      ∧ (x.tdisp = .locked → moves (.startInterface f) .run) ∧ moves (.stopInterface f) .unlocked)
    ∧ (s.tenant f = false → ∀ ev ∈ [Instr.lockInterface f, .startInterface f, .stopInterface f], exec ev s = .next s)
    ∧ (x.isLocked = true → x.part = some p → s.funcOf p = f → moves (.ideStreamFailure f) .error)
    ∧ (x.isLocked = false → exec (.ideStreamFailure f) s = .next (s.onFunc 0 fun y => y.count 1))
    ∧ (let breaks := fun (o : Out) => ∃ s', o = .next s' ∧ s.atRest s' p ∧ (let y := s'.func f
        y.tdisp = .error ∧ y.evbase = x.evbase ∧ y.evcfg = x.evcfg ∧ y.mpbase = x.mpbase ∧ y.mpcfg = x.mpcfg
        ∧ y.msix = x.msix ∧ y.config = x.config ∧ ∀ r : QueueNo, (y.queues[r]).state = .disabled
          ∧ (y.queues[r]).base = (x.queues[r]).base ∧ (y.queues[r]).log2 = (x.queues[r]).log2
          ∧ (y.queues[r]).host = (x.queues[r]).host)
      x.isLocked = true → x.part = some p → s.funcOf p = f → s.hears f = true →
      (∀ i : Fin 16, ∀ o ∈ [write (64 * q.val), write 0x400, write 0x500, write (0x1000 + 8 * i.val),
        exec (.hostMemoryAccess (.config f n v)) s], breaks o)
      ∧ ((x.queues[q]).relocates v = true → ¬ (s.pkg.gondola = .recovery ∧ v.getLsbD 8 = true) →
        breaks (exec (.qcfg f q v) s))
      ∧ ((x.newEvcfg v ^^^ x.evcfg) &&& 0x3F ≠ 0 → breaks (write 0x408))
      ∧ ((x.newMpcfg v ^^^ x.mpcfg) &&& 0xF ≠ 0 → breaks (write 0x508)))
    ∧ (x.isLocked = false → s.hears f = true → exec (.hostMemoryAccess (.config f n v)) s =
      .next (s.onFunc f fun y => { y with config := Map.set y.config n v }))
    ∧ (s.pkg.state = .run → x.resetting = false → ∃ s', exec (.flr f) s = .next s' ∧ (s'.func f).resetting = true
      ∧ s'.due (.flrComplete f) ∧ ∀ r, (s'.queue f r).state = .disabled)
    ∧ (x.resetting = true → ∃ s', exec (.flrComplete f) s = .next s' ∧ (s'.func f).resetting = false
      ∧ (s'.func f).queues = Func.start.queues ∧ (s'.func f).mbcmd = Func.start.mbcmd)
    ∧ (s.hears f = true → x.isLocked = false → (s.queue f q).state ≠ .running →
      ∃ s', write (64 * q.val) = .next s' ∧ (s'.queue f q).base = v &&& 0xFFFFFFFFFF000)
    ∧ write (64 * q.val + 8) = exec (.qcfg f q v) s ∧ write (64 * q.val + 16) = exec (.qtail f q v) s
    ∧ write 0x510 = exec (.mptail f v) s
    ∧ (s.hears f = true → s.verbBusy f = false → v.getLsbD 31 = true → v.toNat % 256 = 8 →
      write 0x800 = exec (.pset f) s)
    ∧ exec (.hostMemoryAccess (.read f a n)) s = .next s
    ∧ (Mem.wf s.host = true → ∃ s', exec (.hostMemoryAccess (.writeHost a bs)) s = .next s' ∧ s'.dram = s.dram
      ∧ ∀ i, Mem.read s'.host i = (lastByte [(a, bs)] i).getD (Mem.read s.host i))
    ∧ (let w := exec (.hostMemoryAccess (.write f a bs)) s
      (s.hostFlip f a bs.length = true → w = .next (s.holdWrite f a bs))
      ∧ (∀ h, s.hostFlip f a bs.length = false → s.hostHome f a bs.length true = some h → w = .next (s.homeWrite h bs))
      ∧ (s.hostFlip f a bs.length = false → s.hostHome f a bs.length true = none → w = .next s))
    ∧ (s.pkg.state ≠ .run → ∀ acc, exec (.peerAccessRequest acc) s = .next s)
    ∧ (s.pkg.state = .run → a + n ≤ dramSize → exec (.peerAccessRequest (.read a n)) s = .next s)
    ∧ (s.pkg.state = .run → a + bs.length ≤ dramSize → Mem.wf s.dram = true → ∃ s', exec (.peerAccessRequest (.write a bs)) s = .next s'
      ∧ s'.host = s.host ∧ ∀ i, Mem.read s'.dram i = (lastByte [(a, bs)] i).getD (Mem.read s.dram i))
    ∧ (s.pkg.state = .run → a + 8 ≤ dramSize → s.isSync (.dram a) = true → exec (.peerAccessRequest (.atom op a v)) s =
      .next (s.writeQ (.dram a) (GatomOp.apply op (s.readQ (.dram a)) v)))
    ∧ (s.pkg.state = .run → dramSize < a + n → exec (.peerAccessRequest (.read a n)) s = .fault (.noMemory a))
    ∧ (s.pkg.state = .run → dramSize < a + bs.length →
      exec (.peerAccessRequest (.write a bs)) s = .fault (.noMemory a))
    ∧ (s.pkg.state = .run → dramSize < a + 8 → exec (.peerAccessRequest (.atom op a v)) s = .fault (.noMemory a))
    ∧ ∀ l, s.leaf p a = some l → ∃ s', exec (.writeBackFailure p a) s = .next s' ∧ l.home a ∈ s'.incomplete

/-- The verbs, where the function hears and none is under way: one that is the PF's alone is DENIED to any other; where
its conditions hold each has its effect and ends with GO clear and STATUS OK, but an UNMAP and a BIAS go on with the
page's change under way and its completion due; a ring serves the proposal at its head by its OP; MPTAIL stands as
written (R372 to R377, R380, R381). Where arguments and statuses stand that R376 does not place is the model's choice
(log 41, log 42). -/
def Obligations.MailboxVerbs : Prop :=
  ∀ (s : State) (f : FuncNo) (p : PartNo), s.hears f = true → s.verbBusy f = false →
    let begin_ := fun (code : Nat) => s.onFunc f fun x => { x with mbcmd := BitVec.ofNat 64 (code + 2 ^ 31) }
    let ends := fun (ev : Instr) (code st : Nat) (g : State → Prop) => ∃ s', exec ev s = .next s'
      ∧ (s'.func f).mbcmd = BitVec.ofNat 64 (code + 256 * st) ∧ g s'
    let pf := [(Instr.pcreate f, 1), (.pdestroy f, 2), (.assign f, 3), (.reclaim f, 4), (.pset f, 8), (.qexport f, 10),
      (.qimport f, 11), (.dirty f, 12), (.gbind f true, 13)]
    let live := fun (i : Fin 4) => s.livePart (s.arg f i) = some p
    (f ≠ 0 → ∀ z ∈ pf, ends z.1 z.2 2 fun _ => True)
    ∧ (let s1 := begin_ 1
      let pcr := parsePcr (Mem.readBytes s.host (s.arg f 0) 256)
      f = 0 → s.pkg.dn.isSome = true → pcr.2 = true → s1.clashes pcr.1 = false →
      (List.finRange 40).find? (fun p => !(s.part p).live) = some p →
      ends (.pcreate f) 1 0 fun s' => (s'.part p).live = true ∧ (s'.func f).mbarg[0] = BitVec.ofNat 64 p.val
        ∧ ∀ k : ClusterNo, pcr.1.clu.getLsbD k.val = true → (s'.clusters[k]).part = some p)
    ∧ (f = 0 → live 0 → ends (.pdestroy f) 2 0 fun s' => s'.part p = Partition.start
      ∧ ∀ k : ClusterNo, (s'.clusters[k]).part ≠ some p)
    ∧ (f = 0 → live 2 → ((s.part p).prot = true → (s.func (s.funcOf p)).tdisp = .unlocked) → s.frameRange f = true →
      (∀ i < s.arg f 1, s.frame? (s.arg f 0 + i) = none) →
      ends (.assign f) 3 0 fun s' => ∀ i < s.arg f 1, s'.frame? (s.arg f 0 + i) = some (.assigned, p))
    ∧ (f = 0 → s.frameRange f = true → (∀ n ∈ s.reclaimed, s.reclaimable n = true) →
      (∀ r ∈ s.liveParts, s.pagesOver r s.reclaimed = [] ∧ ∀ j ∈ (s.part r).jobs, j.takes s.reclaimed = false) →
      ends (.reclaim f) 4 0 fun s' =>
        ∀ n ∈ s.reclaimed, ∀ e, s.frame? n = some e → s'.frame? n = some (.scrub false, e.2) ∧ s'.due (.scrubComplete n))
    ∧ (f = 0 → live 3 → s.closed p = false → 1000 ≤ s.arg f 0 ∧ s.arg f 0 ≤ 10000000 →
      s.arg f 1 = 0 ∨ (10 ≤ s.arg f 1 ∧ s.arg f 1 ≤ 100000) →
      ends (.pset f) 8 0 fun s' => (s'.part p).wdog = s.arg f 0 ∧ (s'.part p).quant = s.arg f 1)
    ∧ (f = 0 ∨ f = s.funcOf p → live 0 → ends (.preset f) 9 0 fun s' => s.atRest s' p)
    ∧ (∀ n, s.migration f Queue.quiet = .ok (n, p) → s.canWrite p (s.arg f 2) 256 = true → ends (.qexport f) 10 0 fun s' =>
      s' = ((begin_ 10).hubWrite p (s.arg f 2) ((s.queue (s.funcOf p) n).record n)).verbDone f 0)
    ∧ (∀ n bs, s.migration f (fun x => x.state == .disabled) = .ok (n, p) → (begin_ 11).hubRead p (s.arg f 2) 256 = some bs →
      leAt bs 252 4 = (crc32c (bs.take 252)).toNat → leAt bs 0 1 = 1 →
      ends (.qimport f) 11 0 fun s' => s'.queue (s.funcOf p) n =
        { Queue.ofRecord bs with open_ := (s.queue (s.funcOf p) n).open_ })
    ∧ (f = 0 → live 0 → s.closed p = false → s.arg f 1 < 2 → s.arg f 2 % 4096 = 0 → s.arg f 2 < 2 ^ 52 →
      s.arg f 3 % 2 ^ 23 = 0 → s.arg f 3 < 2 ^ 52 → s.canWrite p (s.arg f 2) 4096 = true →
      (s.part p).windows[Fin.ofNat 2 (s.arg f 1)] = none → ends (.dirty f) 12 0 fun s' =>
        (s'.part p).windows[Fin.ofNat 2 (s.arg f 1)] = some ⟨s.arg f 3, 0⟩)
    ∧ (f = 0 → s.allQuiet = true → (ends (.gbind f true) 13 0 fun s' => s'.pkg.gondola = .valid)
      ∧ ends (.gbind f false) 13 1 fun s' => s'.pkg.gondola = s.pkg.gondola)
    ∧ (let k := fun (op : Nat) => (⟨s.arg f 0, BitVec.ofNat 64 (s.arg f 1), op, s.arg f 2 == 1, decide (s.arg f 2 < 2)⟩ : Proposal)
      let fit := fun (code op : Nat) => s.verbPart f (s.arg f 3) = some p ∧ (f = 0 → s.closed p = false)
        ∧ (begin_ code).denies f p (k op) = false ∧ (begin_ code).malformed p (k op) = false
      let waits := fun (ev after : Instr) (flip : Bool) => ∃ s', exec ev s = .next s'
        ∧ s'.verbBusy f = true ∧ s'.due after
        ∧ ∃ j ∈ (s'.part p).jobs, j.va = s.arg f 0 ∧ j.flip = flip ∧ j.src = some (.mailbox f)
      (∀ s2, fit 5 0 → (begin_ 5).addLeaf p (s.arg f 0) (s.arg f 2 == 1) (BitVec.ofNat 64 (s.arg f 1)) = some s2 →
        ends (.map (.mailbox f)) 5 0 fun s' => s'.leaf p (s.arg f 0) = s2.leaf p (s.arg f 0))
      ∧ (fit 6 1 → waits (.unmap (.mailbox f)) (.mappingRemovalComplete p (s.arg f 0)) false)
      ∧ (fit 7 2 → waits (.bias (.mailbox f)) (.flipComplete p (s.arg f 0)) true))
    ∧ (∀ r, s.headProposal f = some (p, r) → exec (.protect f) s = .next (if r.op = 3 then s.serveRing f else s)
      ∧ exec (.map (.ring f)) s = .next (if r.op = 0 then s.serveRing f else s))
    ∧ ∀ w, ∃ s', exec (.mptail f w) s = .next s' ∧ (s'.func f).mptail = w.extractLsb' 0 32

/-- Pages and frames: a change that was proposed by a mailbox other than the PF's stands no longer once it completes, and its
verb has ended with STATUS OK; a removal leaves the page with no leaf, and a frame that no other leaf names ASSIGNED; a flip
leaves it with its new leaf and the contents of the drained page under it; new protection first makes the leaf invalid and
then, in a second step, writes the new entry. A frame in SCRUB then reads 0 whole, with the rest of device memory as it was,
and is ASSIGNED again, TABLE where it is the root table's, or FREE. A function whose verb is under way, or that does not
hear, drops a verb (R299, R336, R338, R340, R372, R373, R376). That a change takes effect at one point, and that a root
table's frame is TABLE again, is the model's reading (log 13, log 16, log 33). -/
def Obligations.PagesChange : Prop :=
  ∀ (s : State) (p : PartNo) (va n : Nat) (f : FuncNo),
    (∀ j l flip, s.job? p va flip = some j → s.leaf p va = some l → flip = true ∨ j.leaf = none →
      j.src = some (.mailbox f) → f ≠ 0 →
      ∃ s', exec (if flip then .flipComplete p va else .mappingRemovalComplete p va) s = .next s'
        ∧ j ∉ (s'.part p).jobs ∧ (s'.func f).mbcmd = BitVec.ofNat 64 ((s.func f).mbcmd.toNat % 256))
    ∧ (∀ j l w, s.job? p va false = some j → s.leaf p va = some l → j.leaf = some w →
      ∃ s', exec (.mappingRemovalComplete p va) s = .next s' ∧ j ∈ (s'.part p).jobs ∧ s'.due (.mappingRemovalComplete p va)
        ∧ (j.big = l.big → s'.leaf p va = none))
    ∧ (let quiet := fun (j : PageJob) => j.src = none ∨ ∃ f, j.src = some (.mailbox f)
      (∀ j l, s.job? p va false = some j → s.leaf p va = some l → j.leaf = none → j.big = l.big → quiet j →
        ∃ s', exec (.mappingRemovalComplete p va) s = .next s' ∧ s'.leaf p va = none
          ∧ (s.reclaiming = false → ∀ m ∈ l.frames, s.frame? m = some (.mapped, p) →
            (∀ e ∈ s'.leaves p, m ∉ e.2.frames) → s'.frame? m = some (.assigned, p)))
      ∧ (∀ j w, s.job? p va false = some j → s.leaf p va = none → j.leaf = some w → s.tabled p va j.big →
        Leaf.ok ⟨w, j.big⟩ = true → quiet j → ∃ s', exec (.mappingRemovalComplete p va) s = .next s'
          ∧ s'.leaf p va = some ⟨w, j.big⟩ ∧ j ∉ (s'.part p).jobs)
      ∧ ∀ j l w, s.job? p va true = some j → s.leaf p va = some l → j.leaf = some w → j.big = l.big →
        s.tabled p va j.big → Leaf.ok ⟨w, j.big⟩ = true → quiet j → ∃ s', exec (.flipComplete p va) s = .next s'
          ∧ s'.leaf p va = some ⟨w, j.big⟩
          ∧ (MemsWf s → j.held = [] → (s.part p).ttCtl = [] → (s.part p).faulted = false →
            s.lost (Leaf.home ⟨w, j.big⟩ va) = false → s'.homeRead (Leaf.home ⟨w, j.big⟩ va) l.size
              = (s.drainPage p va l.size).homeRead (l.home va) l.size))
    ∧ (∀ flip, s.job? p va flip = none →
      exec (if flip then .flipComplete p va else .mappingRemovalComplete p va) s = .next s)
    ∧ (∀ again, s.frame? n = some (.scrub again, p) → Mem.wf s.dram = true → ∃ s', exec (.scrubComplete n) s = .next s'
      ∧ (∀ a, Mem.read s'.dram a = if n * 65536 ≤ a ∧ a < (n + 1) * 65536 then 0 else Mem.read s.dram a)
      ∧ s'.frames = if again then Map.set s.frames n (if n = (s.part p).tframe / 2 ^ 16 then .table else .assigned, p)
        else Map.erase s.frames n)
    ∧ (s.hears f = false ∨ s.verbBusy f = true → ∀ ev ∈ [Instr.pcreate f, .pdestroy f, .assign f, .reclaim f, .pset f,
      .preset f, .qexport f, .qimport f, .dirty f, .gbind f true, .map (.mailbox f), .unmap (.mailbox f),
      .bias (.mailbox f)], exec ev s = .next s)

/-! ### Traps, rollback and reset (R303, R314, R315, R317 to R324, R365) -/

/-- At a boundary an enabled interrupt, with nothing before it in the order of R303, is taken, the lowest number first,
into a handler in S with the PC saved; away from one nothing is. An interrupt posted is pending until then and ends a
HALT. Entries due are committed; a strike rolls a context back to its last committed entry, its registers and PC those
of the entry, nothing in flight, where the undo log holds no poisoned record; and the watchdog, a known-answer mismatch and
a strike on something exposed leave the partition at rest (R129, R303, R314, R315, R317, R321 to R324). The corners of a
rollback are the model's reading (log 48). -/
def Obligations.TrapsArrive : Prop :=
  ∀ (s : State) (t : TileNo) (c : CtxNo) (n : BitVec 10), let x := s.ctxAt t c
    (s.atBoundary t c = false → exec (.trapEntry t c) s = .next s)
    ∧ (s.atBoundary t c = true → x.afterIssue = none → x.faultedG = none → x.dq = [] → x.intEnabled = true →
      s.frameOk t c = true → n ∈ x.ints → (∀ m ∈ x.ints, n.toNat ≤ m.toNat) →
      ∃ s', exec (.trapEntry t c) s = .next s' ∧ (s'.ctxAt t c).regs.tepc = x.regs.pc
        ∧ (s'.ctxAt t c).regs.tcause = BitVec.ofNat 64 (n.toNat * 2 ^ 20 + 0x40) ∧ (s'.ctxAt t c).regs.priv = .S
        ∧ (s'.ctxAt t c).ints = x.ints.filter (fun m => m != n) ∧ (s'.ctxAt t c).frame.isSome = true)
    ∧ (n ∈ x.ints → exec (.interruptPost t c n) s = .next s)
    ∧ (n ∉ x.ints → ∃ s', exec (.interruptPost t c n) s = .next s' ∧ (s'.ctxAt t c).ints = x.ints ++ [n]
      ∧ (s'.ctxAt t c).run = if x.run = .halted then .bound else x.run)
    ∧ (∃ s', exec (.segmentCommit t c) s = .next s'
      ∧ ∀ e ∈ (s'.ctxAt t c).segs, e.commitAt ≤ (s.tile t).cycle → e.committed = true)
    ∧ exec (.watchdogExpiry t c) s = .next (if s.watchdogDue t c then (s.partOf t).elim s fun p => s.resetPartition p 2
      else s)
    ∧ (∀ p, s.partOf t = some p → s.atRest (s.resetPartition p 2) p
      ∧ (∃ d, (s.ctxAt t d).strikable = true ∧ (s.ctxAt t d).ended = false ∧ (s.ctxAt t d).exposedPast = true →
        ∃ s', exec (.strikeReport t) s = .next s' ∧ s.atRest s' p)
      ∧ (∃ s', exec (.knownAnswerMismatch t) s = .next s' ∧ (s'.tile t).quarantined = true
        ∧ ((∃ d, (s.ctxAt t d).run ≠ .free) → s.atRest s' p)))
    ∧ ((∀ d, (s.ctxAt t d).strikable = true → (s.ctxAt t d).ended = false → (s.ctxAt t d).exposedPast = false) →
      (∀ u ∈ (s.tile t).undo, u.bad = false) → ∀ e m, x.rollSeg = some m → x.target = some e → ∃ s', exec (.strikeReport t) s = .next s'
        ∧ (s'.ctxAt t c).run = (if x.run = .stopped then .stopped else .bound)
        ∧ (s'.ctxAt t c).regs.xs = e.regs.xs ∧ (s'.ctxAt t c).regs.as = e.regs.as
        ∧ (s'.ctxAt t c).regs.pc = e.regs.pc ∧ (s'.ctxAt t c).flight = [] ∧ (s'.ctxAt t c).seg = e.seg)

/-! ### Memory, and the machine as a whole -/

/-- A byte memory: what was written is read back, every other byte stands, the form stays canonical, and equal contents
are equal memories (R3). What an unlisted byte reads as is the model's choice (log 2). -/
def Obligations.MemoryLaws : Prop :=
  ∀ (m m' : Mem) (a : Nat) (bs : List Byte), Mem.wf m = true →
    Mem.wf (Mem.writeBytes m a bs) = true
    ∧ (∀ i, Mem.read (Mem.writeBytes m a bs) i = (lastByte [(a, bs)] i).getD (Mem.read m i))
    ∧ Mem.readBytes (Mem.writeBytes m a bs) a bs.length = bs
    ∧ (Mem.wf m' = true → (∀ i, Mem.read m i = Mem.read m' i) → m = m')

/-- Every memory keeps its canonical form in every step, from every state that has it. The form and what an unlisted
byte reads as are the model's choice (log 2). -/
def Obligations.MemsStayWf : Prop :=
  ∀ s s' : State, MemsWf s → step s = .next s' → MemsWf s'

/-- The machine before power comes: the package is off, every tile off, every context free, every register of R33 at the
value a task starts with, no partition, no pending step; and every memory is in canonical form. That reset is POWEROFF
with nothing listed is the model's reading (log 3, log 6). -/
def Obligations.ResetState : Prop :=
  MemsWf State.reset ∧ State.reset.pkg.state = .powerOff ∧ State.reset.agenda = [] ∧ State.reset.dueTile = none
    ∧ (∀ t : TileNo, (State.reset.tile t).power = .off ∧ ∀ c : CtxNo, let y := State.reset.ctxAt t c
      let g := y.regs
      y.run = .free ∧ y.task = none
      ∧ (∀ r, g.x r = 0) ∧ (∀ r : Fin 32, g.xs[r] = 0) ∧ (∀ r : AReg, g.as[r] = 0) ∧ (∀ r : AReg, g.asteps[r] = 0)
      ∧ (∀ r : Fin 96, g.lstr[r] = 0) ∧ (∀ r : VReg, g.vmap[r] = .unmapped)
      ∧ g.msd = 1 ∧ g.top = BitVec.allOnes 1024 ∧ (∀ k : Fin 16, k ≠ 0 → g.ms[k] = 0) ∧ g.cm = 0
      ∧ (∀ l : LevelNo, g.lcs[l] = ⟨false, 0, 0, none⟩) ∧ g.nest = none ∧ g.rep = none
      ∧ g.ld = 0 ∧ g.st = 0 ∧ g.cp = 0 ∧ g.tok = 0 ∧ g.fpctl = 0 ∧ g.stky = 0 ∧ g.priv = .U ∧ g.pprv = false ∧ g.ie = false
      ∧ g.tvec = 0 ∧ g.tcause = 0 ∧ g.tepc = 0 ∧ g.sscr = 0 ∧ g.dmiss = 0 ∧ g.pc = 0 ∧ g.nres = false
      ∧ (∀ k : Fin 8, g.held[k] = ⟨⟨.nop, false, false⟩, 7⟩) ∧ (∀ k : SlotNo, g.slots[k] = 0)
      ∧ (∀ r : RtReg, (y.rts[r]).val = 0 ∧ (y.rts[r]).busy = false ∧ (y.rts[r]).xmode = false)
      ∧ y.af = [] ∧ y.bf = [] ∧ y.mq = [] ∧ y.flight = [] ∧ y.gaccs = [] ∧ y.mops = [] ∧ y.hold = [] ∧ y.dq = []
      ∧ y.frame = none ∧ y.ints = [])
    ∧ ∀ p : PartNo, (State.reset.part p).live = false
end

