-- ==== Sys2Proof/Laws/State.lean ====
section
/-! SUPPORT. What each update of the state leaves and sets, one lemma a field, so that no proof unfolds a record. -/

namespace Sys2Proof.Machine

/-! ### Tiles and contexts -/

@[simp] theorem State.tile_setTile (s : State) (t u : TileNo) (x : Tile) :
    (s.setTile t x).tile u = if t = u then x else s.tile u := by
  simp only [State.setTile, State.tile]
  by_cases h : t = u
  · subst h; simp
  · have : t.val ≠ u.val := fun e => h (Fin.ext e)
    simp [h, this]

@[simp] theorem State.tile_onTile (s : State) (t u : TileNo) (f : Tile → Tile) :
    (s.onTile t f).tile u = if t = u then f (s.tile t) else s.tile u := State.tile_setTile ..

@[simp] theorem Tile.ctxs_setCtx (x : Tile) (c d : CtxNo) (v : Ctx) :
    (x.setCtx c v).ctxs[d] = if c = d then v else x.ctxs[d] := by
  simp only [Tile.setCtx]
  by_cases h : c = d
  · subst h; simp
  · have : c.val ≠ d.val := fun e => h (Fin.ext e)
    simp [h, this]

@[simp] theorem State.ctxAt_onCtx (s : State) (t u : TileNo) (c d : CtxNo) (f : Ctx → Ctx) :
    (s.onCtx t c f).ctxAt u d = if t = u ∧ c = d then f (s.ctxAt t c) else s.ctxAt u d := by
  simp only [State.onCtx, State.setCtx, State.ctxAt, State.tile_onTile]
  by_cases h : t = u
  · subst h
    simp only [if_true, true_and]
    exact Tile.ctxs_setCtx ..
  · simp [h]

theorem State.tile_onCtx (s : State) (t u : TileNo) (c : CtxNo) (f : Ctx → Ctx) :
    (s.onCtx t c f).tile u = if t = u then (s.tile t).setCtx c (f (s.ctxAt t c)) else s.tile u := State.tile_setTile ..

theorem State.cx_of {s : State} {t : TileNo} {c : CtxNo} (h : s.cur = .hw t c) : s.cx = s.ctxAt t c := by
  simp [State.cx, h]

theorem State.onCx_of {s : State} {t : TileNo} {c : CtxNo} (h : s.cur = .hw t c) (f : Ctx → Ctx) :
    s.onCx f = s.onCtx t c f := by simp [State.onCx, h]

/-- The acting context after a change of it. -/
theorem State.cx_onCx {s : State} {t : TileNo} {c : CtxNo} (h : s.cur = .hw t c) (f : Ctx → Ctx) :
    (s.onCx f).cx = f s.cx := by
  rw [State.onCx_of h, State.cx_of h, State.cx_of (t := t) (c := c) (by exact h)]
  simp

/-! ### A tile with a context changed -/

@[simp] theorem Tile.setCtx_power (x : Tile) (c : CtxNo) (v : Ctx) : (x.setCtx c v).power = x.power := rfl
@[simp] theorem Tile.setCtx_idleSince (x : Tile) (c : CtxNo) (v : Ctx) : (x.setCtx c v).idleSince = x.idleSince := rfl
@[simp] theorem Tile.setCtx_idleClocks (x : Tile) (c : CtxNo) (v : Ctx) : (x.setCtx c v).idleClocks = x.idleClocks := rfl
@[simp] theorem Tile.setCtx_holdUntil (x : Tile) (c : CtxNo) (v : Ctx) : (x.setCtx c v).holdUntil = x.holdUntil := rfl
@[simp] theorem Tile.setCtx_quarantined (x : Tile) (c : CtxNo) (v : Ctx) : (x.setCtx c v).quarantined = x.quarantined := rfl
@[simp] theorem Tile.setCtx_cycle (x : Tile) (c : CtxNo) (v : Ctx) : (x.setCtx c v).cycle = x.cycle := rfl
@[simp] theorem Tile.setCtx_nextAt (x : Tile) (c : CtxNo) (v : Ctx) : (x.setCtx c v).nextAt = x.nextAt := rfl
@[simp] theorem Tile.setCtx_turn (x : Tile) (c : CtxNo) (v : Ctx) : (x.setCtx c v).turn = x.turn := rfl
@[simp] theorem Tile.setCtx_pool (x : Tile) (c : CtxNo) (v : Ctx) : (x.setCtx c v).pool = x.pool := rfl
@[simp] theorem Tile.setCtx_home (x : Tile) (c : CtxNo) (v : Ctx) : (x.setCtx c v).home = x.home := rfl
@[simp] theorem Tile.setCtx_spill (x : Tile) (c : CtxNo) (v : Ctx) : (x.setCtx c v).spill = x.spill := rfl
@[simp] theorem Tile.setCtx_sp (x : Tile) (c : CtxNo) (v : Ctx) : (x.setCtx c v).sp = x.sp := rfl
@[simp] theorem Tile.setCtx_spPoison (x : Tile) (c : CtxNo) (v : Ctx) : (x.setCtx c v).spPoison = x.spPoison := rfl
@[simp] theorem Tile.setCtx_bays (x : Tile) (c : CtxNo) (v : Ctx) : (x.setCtx c v).bays = x.bays := rfl
@[simp] theorem Tile.setCtx_banks (x : Tile) (c : CtxNo) (v : Ctx) : (x.setCtx c v).banks = x.banks := rfl
@[simp] theorem Tile.setCtx_l1 (x : Tile) (c : CtxNo) (v : Ctx) : (x.setCtx c v).l1 = x.l1 := rfl
@[simp] theorem Tile.setCtx_vFree (x : Tile) (c : CtxNo) (v : Ctx) : (x.setCtx c v).vFree = x.vFree := rfl
@[simp] theorem Tile.setCtx_wFree (x : Tile) (c : CtxNo) (v : Ctx) : (x.setCtx c v).wFree = x.wFree := rfl
@[simp] theorem Tile.setCtx_arrayFree (x : Tile) (c : CtxNo) (v : Ctx) : (x.setCtx c v).arrayFree = x.arrayFree := rfl
@[simp] theorem Tile.setCtx_arrayOrder (x : Tile) (c : CtxNo) (v : Ctx) : (x.setCtx c v).arrayOrder = x.arrayOrder := rfl
@[simp] theorem Tile.setCtx_cmds (x : Tile) (c : CtxNo) (v : Ctx) : (x.setCtx c v).cmds = x.cmds := rfl
@[simp] theorem Tile.setCtx_mram (x : Tile) (c : CtxNo) (v : Ctx) : (x.setCtx c v).mram = x.mram := rfl
@[simp] theorem Tile.setCtx_mramPoison (x : Tile) (c : CtxNo) (v : Ctx) : (x.setCtx c v).mramPoison = x.mramPoison := rfl
@[simp] theorem Tile.setCtx_journal (x : Tile) (c : CtxNo) (v : Ctx) : (x.setCtx c v).journal = x.journal := rfl
@[simp] theorem Tile.setCtx_wear (x : Tile) (c : CtxNo) (v : Ctx) : (x.setCtx c v).wear = x.wear := rfl
@[simp] theorem Tile.setCtx_spares (x : Tile) (c : CtxNo) (v : Ctx) : (x.setCtx c v).spares = x.spares := rfl
@[simp] theorem Tile.setCtx_retired (x : Tile) (c : CtxNo) (v : Ctx) : (x.setCtx c v).retired = x.retired := rfl
@[simp] theorem Tile.setCtx_undo (x : Tile) (c : CtxNo) (v : Ctx) : (x.setCtx c v).undo = x.undo := rfl
@[simp] theorem Tile.setCtx_resume (x : Tile) (c : CtxNo) (v : Ctx) : (x.setCtx c v).resume = x.resume := rfl
@[simp] theorem Tile.setCtx_feedGlob (x : Tile) (c : CtxNo) (v : Ctx) : (x.setCtx c v).feedGlob = x.feedGlob := rfl
@[simp] theorem Tile.setCtx_barAt (x : Tile) (c : CtxNo) (v : Ctx) : (x.setCtx c v).barAt = x.barAt := rfl
@[simp] theorem Tile.setCtx_redo (x : Tile) (c : CtxNo) (v : Ctx) : (x.setCtx c v).redo = x.redo := rfl
@[simp] theorem Tile.setCtx_feedBay (x : Tile) (c : CtxNo) (v : Ctx) : (x.setCtx c v).feedBay = x.feedBay := rfl
@[simp] theorem Tile.setCtx_feedMem (x : Tile) (c : CtxNo) (v : Ctx) : (x.setCtx c v).feedMem = x.feedMem := rfl
@[simp] theorem Tile.setCtx_tests (x : Tile) (c : CtxNo) (v : Ctx) : (x.setCtx c v).tests = x.tests := rfl
@[simp] theorem Tile.setCtx_fails (x : Tile) (c : CtxNo) (v : Ctx) : (x.setCtx c v).fails = x.fails := rfl

/-! ### setTile -/

@[simp] theorem State.setTile_now (s : State) (t : TileNo) (x : Tile) : (s.setTile t x).now = s.now := rfl
@[simp] theorem State.setTile_timeOff (s : State) (t : TileNo) (x : Tile) : (s.setTile t x).timeOff = s.timeOff := rfl
@[simp] theorem State.setTile_timeAt (s : State) (t : TileNo) (x : Tile) : (s.setTile t x).timeAt = s.timeAt := rfl
@[simp] theorem State.setTile_slew (s : State) (t : TileNo) (x : Tile) : (s.setTile t x).slew = s.slew := rfl
@[simp] theorem State.setTile_pkg (s : State) (t : TileNo) (x : Tile) : (s.setTile t x).pkg = s.pkg := rfl
@[simp] theorem State.setTile_dram (s : State) (t : TileNo) (x : Tile) : (s.setTile t x).dram = s.dram := rfl
@[simp] theorem State.setTile_host (s : State) (t : TileNo) (x : Tile) : (s.setTile t x).host = s.host := rfl
@[simp] theorem State.setTile_peer (s : State) (t : TileNo) (x : Tile) : (s.setTile t x).peer = s.peer := rfl
@[simp] theorem State.setTile_poison (s : State) (t : TileNo) (x : Tile) : (s.setTile t x).poison = s.poison := rfl
@[simp] theorem State.setTile_sysCache (s : State) (t : TileNo) (x : Tile) : (s.setTile t x).sysCache = s.sysCache := rfl
@[simp] theorem State.setTile_peerPoison (s : State) (t : TileNo) (x : Tile) : (s.setTile t x).peerPoison = s.peerPoison := rfl
@[simp] theorem State.setTile_frames (s : State) (t : TileNo) (x : Tile) : (s.setTile t x).frames = s.frames := rfl
@[simp] theorem State.setTile_syncLines (s : State) (t : TileNo) (x : Tile) : (s.setTile t x).syncLines = s.syncLines := rfl
@[simp] theorem State.setTile_incomplete (s : State) (t : TileNo) (x : Tile) : (s.setTile t x).incomplete = s.incomplete := rfl
@[simp] theorem State.setTile_regions (s : State) (t : TileNo) (x : Tile) : (s.setTile t x).regions = s.regions := rfl
@[simp] theorem State.setTile_ports (s : State) (t : TileNo) (x : Tile) : (s.setTile t x).ports = s.ports := rfl
@[simp] theorem State.setTile_unreachable (s : State) (t : TileNo) (x : Tile) : (s.setTile t x).unreachable = s.unreachable := rfl
@[simp] theorem State.setTile_groups (s : State) (t : TileNo) (x : Tile) : (s.setTile t x).groups = s.groups := rfl
@[simp] theorem State.setTile_colls (s : State) (t : TileNo) (x : Tile) : (s.setTile t x).colls = s.colls := rfl
@[simp] theorem State.setTile_lantern (s : State) (t : TileNo) (x : Tile) : (s.setTile t x).lantern = s.lantern := rfl
@[simp] theorem State.setTile_funcs (s : State) (t : TileNo) (x : Tile) : (s.setTile t x).funcs = s.funcs := rfl
@[simp] theorem State.setTile_clusters (s : State) (t : TileNo) (x : Tile) : (s.setTile t x).clusters = s.clusters := rfl
@[simp] theorem State.setTile_parts (s : State) (t : TileNo) (x : Tile) : (s.setTile t x).parts = s.parts := rfl
@[simp] theorem State.setTile_prologue (s : State) (t : TileNo) (x : Tile) : (s.setTile t x).prologue = s.prologue := rfl
@[simp] theorem State.setTile_inputs (s : State) (t : TileNo) (x : Tile) : (s.setTile t x).inputs = s.inputs := rfl
@[simp] theorem State.setTile_errs (s : State) (t : TileNo) (x : Tile) : (s.setTile t x).errs = s.errs := rfl
@[simp] theorem State.setTile_agenda (s : State) (t : TileNo) (x : Tile) : (s.setTile t x).agenda = s.agenda := rfl
@[simp] theorem State.setTile_nextId (s : State) (t : TileNo) (x : Tile) : (s.setTile t x).nextId = s.nextId := rfl
@[simp] theorem State.setTile_freeCtr (s : State) (t : TileNo) (x : Tile) : (s.setTile t x).freeCtr = s.freeCtr := rfl
@[simp] theorem State.setTile_cur (s : State) (t : TileNo) (x : Tile) : (s.setTile t x).cur = s.cur := rfl
@[simp] theorem State.setTile_slot (s : State) (t : TileNo) (x : Tile) : (s.setTile t x).slot = s.slot := rfl

/-! ### onTile -/

@[simp] theorem State.onTile_now (s : State) (t : TileNo) (f : Tile → Tile) : (s.onTile t f).now = s.now := rfl
@[simp] theorem State.onTile_timeOff (s : State) (t : TileNo) (f : Tile → Tile) : (s.onTile t f).timeOff = s.timeOff := rfl
@[simp] theorem State.onTile_timeAt (s : State) (t : TileNo) (f : Tile → Tile) : (s.onTile t f).timeAt = s.timeAt := rfl
@[simp] theorem State.onTile_slew (s : State) (t : TileNo) (f : Tile → Tile) : (s.onTile t f).slew = s.slew := rfl
@[simp] theorem State.onTile_pkg (s : State) (t : TileNo) (f : Tile → Tile) : (s.onTile t f).pkg = s.pkg := rfl
@[simp] theorem State.onTile_dram (s : State) (t : TileNo) (f : Tile → Tile) : (s.onTile t f).dram = s.dram := rfl
@[simp] theorem State.onTile_host (s : State) (t : TileNo) (f : Tile → Tile) : (s.onTile t f).host = s.host := rfl
@[simp] theorem State.onTile_peer (s : State) (t : TileNo) (f : Tile → Tile) : (s.onTile t f).peer = s.peer := rfl
@[simp] theorem State.onTile_poison (s : State) (t : TileNo) (f : Tile → Tile) : (s.onTile t f).poison = s.poison := rfl
@[simp] theorem State.onTile_sysCache (s : State) (t : TileNo) (f : Tile → Tile) : (s.onTile t f).sysCache = s.sysCache := rfl
@[simp] theorem State.onTile_peerPoison (s : State) (t : TileNo) (f : Tile → Tile) : (s.onTile t f).peerPoison = s.peerPoison := rfl
@[simp] theorem State.onTile_frames (s : State) (t : TileNo) (f : Tile → Tile) : (s.onTile t f).frames = s.frames := rfl
@[simp] theorem State.onTile_syncLines (s : State) (t : TileNo) (f : Tile → Tile) : (s.onTile t f).syncLines = s.syncLines := rfl
@[simp] theorem State.onTile_incomplete (s : State) (t : TileNo) (f : Tile → Tile) : (s.onTile t f).incomplete = s.incomplete := rfl
@[simp] theorem State.onTile_regions (s : State) (t : TileNo) (f : Tile → Tile) : (s.onTile t f).regions = s.regions := rfl
@[simp] theorem State.onTile_ports (s : State) (t : TileNo) (f : Tile → Tile) : (s.onTile t f).ports = s.ports := rfl
@[simp] theorem State.onTile_unreachable (s : State) (t : TileNo) (f : Tile → Tile) : (s.onTile t f).unreachable = s.unreachable := rfl
@[simp] theorem State.onTile_groups (s : State) (t : TileNo) (f : Tile → Tile) : (s.onTile t f).groups = s.groups := rfl
@[simp] theorem State.onTile_colls (s : State) (t : TileNo) (f : Tile → Tile) : (s.onTile t f).colls = s.colls := rfl
@[simp] theorem State.onTile_lantern (s : State) (t : TileNo) (f : Tile → Tile) : (s.onTile t f).lantern = s.lantern := rfl
@[simp] theorem State.onTile_funcs (s : State) (t : TileNo) (f : Tile → Tile) : (s.onTile t f).funcs = s.funcs := rfl
@[simp] theorem State.onTile_clusters (s : State) (t : TileNo) (f : Tile → Tile) : (s.onTile t f).clusters = s.clusters := rfl
@[simp] theorem State.onTile_parts (s : State) (t : TileNo) (f : Tile → Tile) : (s.onTile t f).parts = s.parts := rfl
@[simp] theorem State.onTile_prologue (s : State) (t : TileNo) (f : Tile → Tile) : (s.onTile t f).prologue = s.prologue := rfl
@[simp] theorem State.onTile_inputs (s : State) (t : TileNo) (f : Tile → Tile) : (s.onTile t f).inputs = s.inputs := rfl
@[simp] theorem State.onTile_errs (s : State) (t : TileNo) (f : Tile → Tile) : (s.onTile t f).errs = s.errs := rfl
@[simp] theorem State.onTile_agenda (s : State) (t : TileNo) (f : Tile → Tile) : (s.onTile t f).agenda = s.agenda := rfl
@[simp] theorem State.onTile_nextId (s : State) (t : TileNo) (f : Tile → Tile) : (s.onTile t f).nextId = s.nextId := rfl
@[simp] theorem State.onTile_freeCtr (s : State) (t : TileNo) (f : Tile → Tile) : (s.onTile t f).freeCtr = s.freeCtr := rfl
@[simp] theorem State.onTile_cur (s : State) (t : TileNo) (f : Tile → Tile) : (s.onTile t f).cur = s.cur := rfl
@[simp] theorem State.onTile_slot (s : State) (t : TileNo) (f : Tile → Tile) : (s.onTile t f).slot = s.slot := rfl

/-! ### onCtx -/

@[simp] theorem State.onCtx_now (s : State) (t : TileNo) (c : CtxNo) (f : Ctx → Ctx) : (s.onCtx t c f).now = s.now := rfl
@[simp] theorem State.onCtx_timeOff (s : State) (t : TileNo) (c : CtxNo) (f : Ctx → Ctx) : (s.onCtx t c f).timeOff = s.timeOff := rfl
@[simp] theorem State.onCtx_timeAt (s : State) (t : TileNo) (c : CtxNo) (f : Ctx → Ctx) : (s.onCtx t c f).timeAt = s.timeAt := rfl
@[simp] theorem State.onCtx_slew (s : State) (t : TileNo) (c : CtxNo) (f : Ctx → Ctx) : (s.onCtx t c f).slew = s.slew := rfl
@[simp] theorem State.onCtx_pkg (s : State) (t : TileNo) (c : CtxNo) (f : Ctx → Ctx) : (s.onCtx t c f).pkg = s.pkg := rfl
@[simp] theorem State.onCtx_dram (s : State) (t : TileNo) (c : CtxNo) (f : Ctx → Ctx) : (s.onCtx t c f).dram = s.dram := rfl
@[simp] theorem State.onCtx_host (s : State) (t : TileNo) (c : CtxNo) (f : Ctx → Ctx) : (s.onCtx t c f).host = s.host := rfl
@[simp] theorem State.onCtx_peer (s : State) (t : TileNo) (c : CtxNo) (f : Ctx → Ctx) : (s.onCtx t c f).peer = s.peer := rfl
@[simp] theorem State.onCtx_poison (s : State) (t : TileNo) (c : CtxNo) (f : Ctx → Ctx) : (s.onCtx t c f).poison = s.poison := rfl
@[simp] theorem State.onCtx_sysCache (s : State) (t : TileNo) (c : CtxNo) (f : Ctx → Ctx) : (s.onCtx t c f).sysCache = s.sysCache := rfl
@[simp] theorem State.onCtx_peerPoison (s : State) (t : TileNo) (c : CtxNo) (f : Ctx → Ctx) : (s.onCtx t c f).peerPoison = s.peerPoison := rfl
@[simp] theorem State.onCtx_frames (s : State) (t : TileNo) (c : CtxNo) (f : Ctx → Ctx) : (s.onCtx t c f).frames = s.frames := rfl
@[simp] theorem State.onCtx_syncLines (s : State) (t : TileNo) (c : CtxNo) (f : Ctx → Ctx) : (s.onCtx t c f).syncLines = s.syncLines := rfl
@[simp] theorem State.onCtx_incomplete (s : State) (t : TileNo) (c : CtxNo) (f : Ctx → Ctx) : (s.onCtx t c f).incomplete = s.incomplete := rfl
@[simp] theorem State.onCtx_regions (s : State) (t : TileNo) (c : CtxNo) (f : Ctx → Ctx) : (s.onCtx t c f).regions = s.regions := rfl
@[simp] theorem State.onCtx_ports (s : State) (t : TileNo) (c : CtxNo) (f : Ctx → Ctx) : (s.onCtx t c f).ports = s.ports := rfl
@[simp] theorem State.onCtx_unreachable (s : State) (t : TileNo) (c : CtxNo) (f : Ctx → Ctx) : (s.onCtx t c f).unreachable = s.unreachable := rfl
@[simp] theorem State.onCtx_groups (s : State) (t : TileNo) (c : CtxNo) (f : Ctx → Ctx) : (s.onCtx t c f).groups = s.groups := rfl
@[simp] theorem State.onCtx_colls (s : State) (t : TileNo) (c : CtxNo) (f : Ctx → Ctx) : (s.onCtx t c f).colls = s.colls := rfl
@[simp] theorem State.onCtx_lantern (s : State) (t : TileNo) (c : CtxNo) (f : Ctx → Ctx) : (s.onCtx t c f).lantern = s.lantern := rfl
@[simp] theorem State.onCtx_funcs (s : State) (t : TileNo) (c : CtxNo) (f : Ctx → Ctx) : (s.onCtx t c f).funcs = s.funcs := rfl
@[simp] theorem State.onCtx_clusters (s : State) (t : TileNo) (c : CtxNo) (f : Ctx → Ctx) : (s.onCtx t c f).clusters = s.clusters := rfl
@[simp] theorem State.onCtx_parts (s : State) (t : TileNo) (c : CtxNo) (f : Ctx → Ctx) : (s.onCtx t c f).parts = s.parts := rfl
@[simp] theorem State.onCtx_prologue (s : State) (t : TileNo) (c : CtxNo) (f : Ctx → Ctx) : (s.onCtx t c f).prologue = s.prologue := rfl
@[simp] theorem State.onCtx_inputs (s : State) (t : TileNo) (c : CtxNo) (f : Ctx → Ctx) : (s.onCtx t c f).inputs = s.inputs := rfl
@[simp] theorem State.onCtx_errs (s : State) (t : TileNo) (c : CtxNo) (f : Ctx → Ctx) : (s.onCtx t c f).errs = s.errs := rfl
@[simp] theorem State.onCtx_agenda (s : State) (t : TileNo) (c : CtxNo) (f : Ctx → Ctx) : (s.onCtx t c f).agenda = s.agenda := rfl
@[simp] theorem State.onCtx_nextId (s : State) (t : TileNo) (c : CtxNo) (f : Ctx → Ctx) : (s.onCtx t c f).nextId = s.nextId := rfl
@[simp] theorem State.onCtx_freeCtr (s : State) (t : TileNo) (c : CtxNo) (f : Ctx → Ctx) : (s.onCtx t c f).freeCtr = s.freeCtr := rfl
@[simp] theorem State.onCtx_cur (s : State) (t : TileNo) (c : CtxNo) (f : Ctx → Ctx) : (s.onCtx t c f).cur = s.cur := rfl
@[simp] theorem State.onCtx_slot (s : State) (t : TileNo) (c : CtxNo) (f : Ctx → Ctx) : (s.onCtx t c f).slot = s.slot := rfl

/-! ### onPart -/

@[simp] theorem State.onPart_now (s : State) (p : PartNo) (f : Partition → Partition) : (s.onPart p f).now = s.now := rfl
@[simp] theorem State.onPart_timeOff (s : State) (p : PartNo) (f : Partition → Partition) : (s.onPart p f).timeOff = s.timeOff := rfl
@[simp] theorem State.onPart_timeAt (s : State) (p : PartNo) (f : Partition → Partition) : (s.onPart p f).timeAt = s.timeAt := rfl
@[simp] theorem State.onPart_slew (s : State) (p : PartNo) (f : Partition → Partition) : (s.onPart p f).slew = s.slew := rfl
@[simp] theorem State.onPart_pkg (s : State) (p : PartNo) (f : Partition → Partition) : (s.onPart p f).pkg = s.pkg := rfl
@[simp] theorem State.onPart_dram (s : State) (p : PartNo) (f : Partition → Partition) : (s.onPart p f).dram = s.dram := rfl
@[simp] theorem State.onPart_host (s : State) (p : PartNo) (f : Partition → Partition) : (s.onPart p f).host = s.host := rfl
@[simp] theorem State.onPart_peer (s : State) (p : PartNo) (f : Partition → Partition) : (s.onPart p f).peer = s.peer := rfl
@[simp] theorem State.onPart_poison (s : State) (p : PartNo) (f : Partition → Partition) : (s.onPart p f).poison = s.poison := rfl
@[simp] theorem State.onPart_sysCache (s : State) (p : PartNo) (f : Partition → Partition) : (s.onPart p f).sysCache = s.sysCache := rfl
@[simp] theorem State.onPart_peerPoison (s : State) (p : PartNo) (f : Partition → Partition) : (s.onPart p f).peerPoison = s.peerPoison := rfl
@[simp] theorem State.onPart_frames (s : State) (p : PartNo) (f : Partition → Partition) : (s.onPart p f).frames = s.frames := rfl
@[simp] theorem State.onPart_syncLines (s : State) (p : PartNo) (f : Partition → Partition) : (s.onPart p f).syncLines = s.syncLines := rfl
@[simp] theorem State.onPart_incomplete (s : State) (p : PartNo) (f : Partition → Partition) : (s.onPart p f).incomplete = s.incomplete := rfl
@[simp] theorem State.onPart_regions (s : State) (p : PartNo) (f : Partition → Partition) : (s.onPart p f).regions = s.regions := rfl
@[simp] theorem State.onPart_ports (s : State) (p : PartNo) (f : Partition → Partition) : (s.onPart p f).ports = s.ports := rfl
@[simp] theorem State.onPart_unreachable (s : State) (p : PartNo) (f : Partition → Partition) : (s.onPart p f).unreachable = s.unreachable := rfl
@[simp] theorem State.onPart_groups (s : State) (p : PartNo) (f : Partition → Partition) : (s.onPart p f).groups = s.groups := rfl
@[simp] theorem State.onPart_colls (s : State) (p : PartNo) (f : Partition → Partition) : (s.onPart p f).colls = s.colls := rfl
@[simp] theorem State.onPart_lantern (s : State) (p : PartNo) (f : Partition → Partition) : (s.onPart p f).lantern = s.lantern := rfl
@[simp] theorem State.onPart_funcs (s : State) (p : PartNo) (f : Partition → Partition) : (s.onPart p f).funcs = s.funcs := rfl
@[simp] theorem State.onPart_clusters (s : State) (p : PartNo) (f : Partition → Partition) : (s.onPart p f).clusters = s.clusters := rfl
@[simp] theorem State.onPart_tiles (s : State) (p : PartNo) (f : Partition → Partition) : (s.onPart p f).tiles = s.tiles := rfl
@[simp] theorem State.onPart_prologue (s : State) (p : PartNo) (f : Partition → Partition) : (s.onPart p f).prologue = s.prologue := rfl
@[simp] theorem State.onPart_inputs (s : State) (p : PartNo) (f : Partition → Partition) : (s.onPart p f).inputs = s.inputs := rfl
@[simp] theorem State.onPart_errs (s : State) (p : PartNo) (f : Partition → Partition) : (s.onPart p f).errs = s.errs := rfl
@[simp] theorem State.onPart_agenda (s : State) (p : PartNo) (f : Partition → Partition) : (s.onPart p f).agenda = s.agenda := rfl
@[simp] theorem State.onPart_nextId (s : State) (p : PartNo) (f : Partition → Partition) : (s.onPart p f).nextId = s.nextId := rfl
@[simp] theorem State.onPart_freeCtr (s : State) (p : PartNo) (f : Partition → Partition) : (s.onPart p f).freeCtr = s.freeCtr := rfl
@[simp] theorem State.onPart_cur (s : State) (p : PartNo) (f : Partition → Partition) : (s.onPart p f).cur = s.cur := rfl
@[simp] theorem State.onPart_slot (s : State) (p : PartNo) (f : Partition → Partition) : (s.onPart p f).slot = s.slot := rfl

/-! ### onFunc -/

@[simp] theorem State.onFunc_now (s : State) (n : FuncNo) (f : Func → Func) : (s.onFunc n f).now = s.now := rfl
@[simp] theorem State.onFunc_timeOff (s : State) (n : FuncNo) (f : Func → Func) : (s.onFunc n f).timeOff = s.timeOff := rfl
@[simp] theorem State.onFunc_timeAt (s : State) (n : FuncNo) (f : Func → Func) : (s.onFunc n f).timeAt = s.timeAt := rfl
@[simp] theorem State.onFunc_slew (s : State) (n : FuncNo) (f : Func → Func) : (s.onFunc n f).slew = s.slew := rfl
@[simp] theorem State.onFunc_pkg (s : State) (n : FuncNo) (f : Func → Func) : (s.onFunc n f).pkg = s.pkg := rfl
@[simp] theorem State.onFunc_dram (s : State) (n : FuncNo) (f : Func → Func) : (s.onFunc n f).dram = s.dram := rfl
@[simp] theorem State.onFunc_host (s : State) (n : FuncNo) (f : Func → Func) : (s.onFunc n f).host = s.host := rfl
@[simp] theorem State.onFunc_peer (s : State) (n : FuncNo) (f : Func → Func) : (s.onFunc n f).peer = s.peer := rfl
@[simp] theorem State.onFunc_poison (s : State) (n : FuncNo) (f : Func → Func) : (s.onFunc n f).poison = s.poison := rfl
@[simp] theorem State.onFunc_sysCache (s : State) (n : FuncNo) (f : Func → Func) : (s.onFunc n f).sysCache = s.sysCache := rfl
@[simp] theorem State.onFunc_peerPoison (s : State) (n : FuncNo) (f : Func → Func) : (s.onFunc n f).peerPoison = s.peerPoison := rfl
@[simp] theorem State.onFunc_frames (s : State) (n : FuncNo) (f : Func → Func) : (s.onFunc n f).frames = s.frames := rfl
@[simp] theorem State.onFunc_syncLines (s : State) (n : FuncNo) (f : Func → Func) : (s.onFunc n f).syncLines = s.syncLines := rfl
@[simp] theorem State.onFunc_incomplete (s : State) (n : FuncNo) (f : Func → Func) : (s.onFunc n f).incomplete = s.incomplete := rfl
@[simp] theorem State.onFunc_regions (s : State) (n : FuncNo) (f : Func → Func) : (s.onFunc n f).regions = s.regions := rfl
@[simp] theorem State.onFunc_ports (s : State) (n : FuncNo) (f : Func → Func) : (s.onFunc n f).ports = s.ports := rfl
@[simp] theorem State.onFunc_unreachable (s : State) (n : FuncNo) (f : Func → Func) : (s.onFunc n f).unreachable = s.unreachable := rfl
@[simp] theorem State.onFunc_groups (s : State) (n : FuncNo) (f : Func → Func) : (s.onFunc n f).groups = s.groups := rfl
@[simp] theorem State.onFunc_colls (s : State) (n : FuncNo) (f : Func → Func) : (s.onFunc n f).colls = s.colls := rfl
@[simp] theorem State.onFunc_lantern (s : State) (n : FuncNo) (f : Func → Func) : (s.onFunc n f).lantern = s.lantern := rfl
@[simp] theorem State.onFunc_clusters (s : State) (n : FuncNo) (f : Func → Func) : (s.onFunc n f).clusters = s.clusters := rfl
@[simp] theorem State.onFunc_parts (s : State) (n : FuncNo) (f : Func → Func) : (s.onFunc n f).parts = s.parts := rfl
@[simp] theorem State.onFunc_tiles (s : State) (n : FuncNo) (f : Func → Func) : (s.onFunc n f).tiles = s.tiles := rfl
@[simp] theorem State.onFunc_prologue (s : State) (n : FuncNo) (f : Func → Func) : (s.onFunc n f).prologue = s.prologue := rfl
@[simp] theorem State.onFunc_inputs (s : State) (n : FuncNo) (f : Func → Func) : (s.onFunc n f).inputs = s.inputs := rfl
@[simp] theorem State.onFunc_errs (s : State) (n : FuncNo) (f : Func → Func) : (s.onFunc n f).errs = s.errs := rfl
@[simp] theorem State.onFunc_agenda (s : State) (n : FuncNo) (f : Func → Func) : (s.onFunc n f).agenda = s.agenda := rfl
@[simp] theorem State.onFunc_nextId (s : State) (n : FuncNo) (f : Func → Func) : (s.onFunc n f).nextId = s.nextId := rfl
@[simp] theorem State.onFunc_freeCtr (s : State) (n : FuncNo) (f : Func → Func) : (s.onFunc n f).freeCtr = s.freeCtr := rfl
@[simp] theorem State.onFunc_cur (s : State) (n : FuncNo) (f : Func → Func) : (s.onFunc n f).cur = s.cur := rfl
@[simp] theorem State.onFunc_slot (s : State) (n : FuncNo) (f : Func → Func) : (s.onFunc n f).slot = s.slot := rfl

/-! ### onCluster -/

@[simp] theorem State.onCluster_now (s : State) (k : ClusterNo) (f : Cluster → Cluster) : (s.onCluster k f).now = s.now := rfl
@[simp] theorem State.onCluster_timeOff (s : State) (k : ClusterNo) (f : Cluster → Cluster) : (s.onCluster k f).timeOff = s.timeOff := rfl
@[simp] theorem State.onCluster_timeAt (s : State) (k : ClusterNo) (f : Cluster → Cluster) : (s.onCluster k f).timeAt = s.timeAt := rfl
@[simp] theorem State.onCluster_slew (s : State) (k : ClusterNo) (f : Cluster → Cluster) : (s.onCluster k f).slew = s.slew := rfl
@[simp] theorem State.onCluster_pkg (s : State) (k : ClusterNo) (f : Cluster → Cluster) : (s.onCluster k f).pkg = s.pkg := rfl
@[simp] theorem State.onCluster_dram (s : State) (k : ClusterNo) (f : Cluster → Cluster) : (s.onCluster k f).dram = s.dram := rfl
@[simp] theorem State.onCluster_host (s : State) (k : ClusterNo) (f : Cluster → Cluster) : (s.onCluster k f).host = s.host := rfl
@[simp] theorem State.onCluster_peer (s : State) (k : ClusterNo) (f : Cluster → Cluster) : (s.onCluster k f).peer = s.peer := rfl
@[simp] theorem State.onCluster_poison (s : State) (k : ClusterNo) (f : Cluster → Cluster) : (s.onCluster k f).poison = s.poison := rfl
@[simp] theorem State.onCluster_sysCache (s : State) (k : ClusterNo) (f : Cluster → Cluster) : (s.onCluster k f).sysCache = s.sysCache := rfl
@[simp] theorem State.onCluster_peerPoison (s : State) (k : ClusterNo) (f : Cluster → Cluster) : (s.onCluster k f).peerPoison = s.peerPoison := rfl
@[simp] theorem State.onCluster_frames (s : State) (k : ClusterNo) (f : Cluster → Cluster) : (s.onCluster k f).frames = s.frames := rfl
@[simp] theorem State.onCluster_syncLines (s : State) (k : ClusterNo) (f : Cluster → Cluster) : (s.onCluster k f).syncLines = s.syncLines := rfl
@[simp] theorem State.onCluster_incomplete (s : State) (k : ClusterNo) (f : Cluster → Cluster) : (s.onCluster k f).incomplete = s.incomplete := rfl
@[simp] theorem State.onCluster_regions (s : State) (k : ClusterNo) (f : Cluster → Cluster) : (s.onCluster k f).regions = s.regions := rfl
@[simp] theorem State.onCluster_ports (s : State) (k : ClusterNo) (f : Cluster → Cluster) : (s.onCluster k f).ports = s.ports := rfl
@[simp] theorem State.onCluster_unreachable (s : State) (k : ClusterNo) (f : Cluster → Cluster) : (s.onCluster k f).unreachable = s.unreachable := rfl
@[simp] theorem State.onCluster_groups (s : State) (k : ClusterNo) (f : Cluster → Cluster) : (s.onCluster k f).groups = s.groups := rfl
@[simp] theorem State.onCluster_colls (s : State) (k : ClusterNo) (f : Cluster → Cluster) : (s.onCluster k f).colls = s.colls := rfl
@[simp] theorem State.onCluster_lantern (s : State) (k : ClusterNo) (f : Cluster → Cluster) : (s.onCluster k f).lantern = s.lantern := rfl
@[simp] theorem State.onCluster_funcs (s : State) (k : ClusterNo) (f : Cluster → Cluster) : (s.onCluster k f).funcs = s.funcs := rfl
@[simp] theorem State.onCluster_parts (s : State) (k : ClusterNo) (f : Cluster → Cluster) : (s.onCluster k f).parts = s.parts := rfl
@[simp] theorem State.onCluster_tiles (s : State) (k : ClusterNo) (f : Cluster → Cluster) : (s.onCluster k f).tiles = s.tiles := rfl
@[simp] theorem State.onCluster_prologue (s : State) (k : ClusterNo) (f : Cluster → Cluster) : (s.onCluster k f).prologue = s.prologue := rfl
@[simp] theorem State.onCluster_inputs (s : State) (k : ClusterNo) (f : Cluster → Cluster) : (s.onCluster k f).inputs = s.inputs := rfl
@[simp] theorem State.onCluster_errs (s : State) (k : ClusterNo) (f : Cluster → Cluster) : (s.onCluster k f).errs = s.errs := rfl
@[simp] theorem State.onCluster_agenda (s : State) (k : ClusterNo) (f : Cluster → Cluster) : (s.onCluster k f).agenda = s.agenda := rfl
@[simp] theorem State.onCluster_nextId (s : State) (k : ClusterNo) (f : Cluster → Cluster) : (s.onCluster k f).nextId = s.nextId := rfl
@[simp] theorem State.onCluster_freeCtr (s : State) (k : ClusterNo) (f : Cluster → Cluster) : (s.onCluster k f).freeCtr = s.freeCtr := rfl
@[simp] theorem State.onCluster_cur (s : State) (k : ClusterNo) (f : Cluster → Cluster) : (s.onCluster k f).cur = s.cur := rfl
@[simp] theorem State.onCluster_slot (s : State) (k : ClusterNo) (f : Cluster → Cluster) : (s.onCluster k f).slot = s.slot := rfl

/-! ### schedAt -/

@[simp] theorem State.schedAt_now (s : State) (a k : Nat) (ev : Instr) : (s.schedAt a k ev).now = s.now := rfl
@[simp] theorem State.schedAt_timeOff (s : State) (a k : Nat) (ev : Instr) : (s.schedAt a k ev).timeOff = s.timeOff := rfl
@[simp] theorem State.schedAt_timeAt (s : State) (a k : Nat) (ev : Instr) : (s.schedAt a k ev).timeAt = s.timeAt := rfl
@[simp] theorem State.schedAt_slew (s : State) (a k : Nat) (ev : Instr) : (s.schedAt a k ev).slew = s.slew := rfl
@[simp] theorem State.schedAt_pkg (s : State) (a k : Nat) (ev : Instr) : (s.schedAt a k ev).pkg = s.pkg := rfl
@[simp] theorem State.schedAt_dram (s : State) (a k : Nat) (ev : Instr) : (s.schedAt a k ev).dram = s.dram := rfl
@[simp] theorem State.schedAt_host (s : State) (a k : Nat) (ev : Instr) : (s.schedAt a k ev).host = s.host := rfl
@[simp] theorem State.schedAt_peer (s : State) (a k : Nat) (ev : Instr) : (s.schedAt a k ev).peer = s.peer := rfl
@[simp] theorem State.schedAt_poison (s : State) (a k : Nat) (ev : Instr) : (s.schedAt a k ev).poison = s.poison := rfl
@[simp] theorem State.schedAt_sysCache (s : State) (a k : Nat) (ev : Instr) : (s.schedAt a k ev).sysCache = s.sysCache := rfl
@[simp] theorem State.schedAt_peerPoison (s : State) (a k : Nat) (ev : Instr) : (s.schedAt a k ev).peerPoison = s.peerPoison := rfl
@[simp] theorem State.schedAt_frames (s : State) (a k : Nat) (ev : Instr) : (s.schedAt a k ev).frames = s.frames := rfl
@[simp] theorem State.schedAt_syncLines (s : State) (a k : Nat) (ev : Instr) : (s.schedAt a k ev).syncLines = s.syncLines := rfl
@[simp] theorem State.schedAt_incomplete (s : State) (a k : Nat) (ev : Instr) : (s.schedAt a k ev).incomplete = s.incomplete := rfl
@[simp] theorem State.schedAt_regions (s : State) (a k : Nat) (ev : Instr) : (s.schedAt a k ev).regions = s.regions := rfl
@[simp] theorem State.schedAt_ports (s : State) (a k : Nat) (ev : Instr) : (s.schedAt a k ev).ports = s.ports := rfl
@[simp] theorem State.schedAt_unreachable (s : State) (a k : Nat) (ev : Instr) : (s.schedAt a k ev).unreachable = s.unreachable := rfl
@[simp] theorem State.schedAt_groups (s : State) (a k : Nat) (ev : Instr) : (s.schedAt a k ev).groups = s.groups := rfl
@[simp] theorem State.schedAt_colls (s : State) (a k : Nat) (ev : Instr) : (s.schedAt a k ev).colls = s.colls := rfl
@[simp] theorem State.schedAt_lantern (s : State) (a k : Nat) (ev : Instr) : (s.schedAt a k ev).lantern = s.lantern := rfl
@[simp] theorem State.schedAt_funcs (s : State) (a k : Nat) (ev : Instr) : (s.schedAt a k ev).funcs = s.funcs := rfl
@[simp] theorem State.schedAt_clusters (s : State) (a k : Nat) (ev : Instr) : (s.schedAt a k ev).clusters = s.clusters := rfl
@[simp] theorem State.schedAt_parts (s : State) (a k : Nat) (ev : Instr) : (s.schedAt a k ev).parts = s.parts := rfl
@[simp] theorem State.schedAt_tiles (s : State) (a k : Nat) (ev : Instr) : (s.schedAt a k ev).tiles = s.tiles := rfl
@[simp] theorem State.schedAt_prologue (s : State) (a k : Nat) (ev : Instr) : (s.schedAt a k ev).prologue = s.prologue := rfl
@[simp] theorem State.schedAt_inputs (s : State) (a k : Nat) (ev : Instr) : (s.schedAt a k ev).inputs = s.inputs := rfl
@[simp] theorem State.schedAt_errs (s : State) (a k : Nat) (ev : Instr) : (s.schedAt a k ev).errs = s.errs := rfl
@[simp] theorem State.schedAt_nextId (s : State) (a k : Nat) (ev : Instr) : (s.schedAt a k ev).nextId = s.nextId := rfl
@[simp] theorem State.schedAt_freeCtr (s : State) (a k : Nat) (ev : Instr) : (s.schedAt a k ev).freeCtr = s.freeCtr := rfl
@[simp] theorem State.schedAt_cur (s : State) (a k : Nat) (ev : Instr) : (s.schedAt a k ev).cur = s.cur := rfl
@[simp] theorem State.schedAt_slot (s : State) (a k : Nat) (ev : Instr) : (s.schedAt a k ev).slot = s.slot := rfl

/-! ### sched -/

@[simp] theorem State.sched_now (s : State) (lo hi k : Nat) (ev : Instr) : (s.sched lo hi k ev).now = s.now := rfl
@[simp] theorem State.sched_timeOff (s : State) (lo hi k : Nat) (ev : Instr) : (s.sched lo hi k ev).timeOff = s.timeOff := rfl
@[simp] theorem State.sched_timeAt (s : State) (lo hi k : Nat) (ev : Instr) : (s.sched lo hi k ev).timeAt = s.timeAt := rfl
@[simp] theorem State.sched_slew (s : State) (lo hi k : Nat) (ev : Instr) : (s.sched lo hi k ev).slew = s.slew := rfl
@[simp] theorem State.sched_pkg (s : State) (lo hi k : Nat) (ev : Instr) : (s.sched lo hi k ev).pkg = s.pkg := rfl
@[simp] theorem State.sched_dram (s : State) (lo hi k : Nat) (ev : Instr) : (s.sched lo hi k ev).dram = s.dram := rfl
@[simp] theorem State.sched_host (s : State) (lo hi k : Nat) (ev : Instr) : (s.sched lo hi k ev).host = s.host := rfl
@[simp] theorem State.sched_peer (s : State) (lo hi k : Nat) (ev : Instr) : (s.sched lo hi k ev).peer = s.peer := rfl
@[simp] theorem State.sched_poison (s : State) (lo hi k : Nat) (ev : Instr) : (s.sched lo hi k ev).poison = s.poison := rfl
@[simp] theorem State.sched_sysCache (s : State) (lo hi k : Nat) (ev : Instr) : (s.sched lo hi k ev).sysCache = s.sysCache := rfl
@[simp] theorem State.sched_peerPoison (s : State) (lo hi k : Nat) (ev : Instr) : (s.sched lo hi k ev).peerPoison = s.peerPoison := rfl
@[simp] theorem State.sched_frames (s : State) (lo hi k : Nat) (ev : Instr) : (s.sched lo hi k ev).frames = s.frames := rfl
@[simp] theorem State.sched_syncLines (s : State) (lo hi k : Nat) (ev : Instr) : (s.sched lo hi k ev).syncLines = s.syncLines := rfl
@[simp] theorem State.sched_incomplete (s : State) (lo hi k : Nat) (ev : Instr) : (s.sched lo hi k ev).incomplete = s.incomplete := rfl
@[simp] theorem State.sched_regions (s : State) (lo hi k : Nat) (ev : Instr) : (s.sched lo hi k ev).regions = s.regions := rfl
@[simp] theorem State.sched_ports (s : State) (lo hi k : Nat) (ev : Instr) : (s.sched lo hi k ev).ports = s.ports := rfl
@[simp] theorem State.sched_unreachable (s : State) (lo hi k : Nat) (ev : Instr) : (s.sched lo hi k ev).unreachable = s.unreachable := rfl
@[simp] theorem State.sched_groups (s : State) (lo hi k : Nat) (ev : Instr) : (s.sched lo hi k ev).groups = s.groups := rfl
@[simp] theorem State.sched_colls (s : State) (lo hi k : Nat) (ev : Instr) : (s.sched lo hi k ev).colls = s.colls := rfl
@[simp] theorem State.sched_lantern (s : State) (lo hi k : Nat) (ev : Instr) : (s.sched lo hi k ev).lantern = s.lantern := rfl
@[simp] theorem State.sched_funcs (s : State) (lo hi k : Nat) (ev : Instr) : (s.sched lo hi k ev).funcs = s.funcs := rfl
@[simp] theorem State.sched_clusters (s : State) (lo hi k : Nat) (ev : Instr) : (s.sched lo hi k ev).clusters = s.clusters := rfl
@[simp] theorem State.sched_parts (s : State) (lo hi k : Nat) (ev : Instr) : (s.sched lo hi k ev).parts = s.parts := rfl
@[simp] theorem State.sched_tiles (s : State) (lo hi k : Nat) (ev : Instr) : (s.sched lo hi k ev).tiles = s.tiles := rfl
@[simp] theorem State.sched_prologue (s : State) (lo hi k : Nat) (ev : Instr) : (s.sched lo hi k ev).prologue = s.prologue := rfl
@[simp] theorem State.sched_inputs (s : State) (lo hi k : Nat) (ev : Instr) : (s.sched lo hi k ev).inputs = s.inputs := rfl
@[simp] theorem State.sched_errs (s : State) (lo hi k : Nat) (ev : Instr) : (s.sched lo hi k ev).errs = s.errs := rfl
@[simp] theorem State.sched_nextId (s : State) (lo hi k : Nat) (ev : Instr) : (s.sched lo hi k ev).nextId = s.nextId := rfl
@[simp] theorem State.sched_cur (s : State) (lo hi k : Nat) (ev : Instr) : (s.sched lo hi k ev).cur = s.cur := rfl
@[simp] theorem State.sched_slot (s : State) (lo hi k : Nat) (ev : Instr) : (s.sched lo hi k ev).slot = s.slot := rfl

/-! ### onCx -/

@[simp] theorem State.onCx_now (s : State) (f : Ctx → Ctx) : (s.onCx f).now = s.now := by
  unfold State.onCx; split <;> rfl
@[simp] theorem State.onCx_timeOff (s : State) (f : Ctx → Ctx) : (s.onCx f).timeOff = s.timeOff := by
  unfold State.onCx; split <;> rfl
@[simp] theorem State.onCx_timeAt (s : State) (f : Ctx → Ctx) : (s.onCx f).timeAt = s.timeAt := by
  unfold State.onCx; split <;> rfl
@[simp] theorem State.onCx_slew (s : State) (f : Ctx → Ctx) : (s.onCx f).slew = s.slew := by
  unfold State.onCx; split <;> rfl
@[simp] theorem State.onCx_pkg (s : State) (f : Ctx → Ctx) : (s.onCx f).pkg = s.pkg := by
  unfold State.onCx; split <;> rfl
@[simp] theorem State.onCx_dram (s : State) (f : Ctx → Ctx) : (s.onCx f).dram = s.dram := by
  unfold State.onCx; split <;> rfl
@[simp] theorem State.onCx_host (s : State) (f : Ctx → Ctx) : (s.onCx f).host = s.host := by
  unfold State.onCx; split <;> rfl
@[simp] theorem State.onCx_peer (s : State) (f : Ctx → Ctx) : (s.onCx f).peer = s.peer := by
  unfold State.onCx; split <;> rfl
@[simp] theorem State.onCx_poison (s : State) (f : Ctx → Ctx) : (s.onCx f).poison = s.poison := by
  unfold State.onCx; split <;> rfl
@[simp] theorem State.onCx_sysCache (s : State) (f : Ctx → Ctx) : (s.onCx f).sysCache = s.sysCache := by
  unfold State.onCx; split <;> rfl
@[simp] theorem State.onCx_peerPoison (s : State) (f : Ctx → Ctx) : (s.onCx f).peerPoison = s.peerPoison := by
  unfold State.onCx; split <;> rfl
@[simp] theorem State.onCx_frames (s : State) (f : Ctx → Ctx) : (s.onCx f).frames = s.frames := by
  unfold State.onCx; split <;> rfl
@[simp] theorem State.onCx_syncLines (s : State) (f : Ctx → Ctx) : (s.onCx f).syncLines = s.syncLines := by
  unfold State.onCx; split <;> rfl
@[simp] theorem State.onCx_incomplete (s : State) (f : Ctx → Ctx) : (s.onCx f).incomplete = s.incomplete := by
  unfold State.onCx; split <;> rfl
@[simp] theorem State.onCx_regions (s : State) (f : Ctx → Ctx) : (s.onCx f).regions = s.regions := by
  unfold State.onCx; split <;> rfl
@[simp] theorem State.onCx_ports (s : State) (f : Ctx → Ctx) : (s.onCx f).ports = s.ports := by
  unfold State.onCx; split <;> rfl
@[simp] theorem State.onCx_unreachable (s : State) (f : Ctx → Ctx) : (s.onCx f).unreachable = s.unreachable := by
  unfold State.onCx; split <;> rfl
@[simp] theorem State.onCx_groups (s : State) (f : Ctx → Ctx) : (s.onCx f).groups = s.groups := by
  unfold State.onCx; split <;> rfl
@[simp] theorem State.onCx_colls (s : State) (f : Ctx → Ctx) : (s.onCx f).colls = s.colls := by
  unfold State.onCx; split <;> rfl
@[simp] theorem State.onCx_lantern (s : State) (f : Ctx → Ctx) : (s.onCx f).lantern = s.lantern := by
  unfold State.onCx; split <;> rfl
@[simp] theorem State.onCx_funcs (s : State) (f : Ctx → Ctx) : (s.onCx f).funcs = s.funcs := by
  unfold State.onCx; split <;> rfl
@[simp] theorem State.onCx_clusters (s : State) (f : Ctx → Ctx) : (s.onCx f).clusters = s.clusters := by
  unfold State.onCx; split <;> rfl
@[simp] theorem State.onCx_parts (s : State) (f : Ctx → Ctx) : (s.onCx f).parts = s.parts := by
  unfold State.onCx; split <;> rfl
@[simp] theorem State.onCx_inputs (s : State) (f : Ctx → Ctx) : (s.onCx f).inputs = s.inputs := by
  unfold State.onCx; split <;> rfl
@[simp] theorem State.onCx_errs (s : State) (f : Ctx → Ctx) : (s.onCx f).errs = s.errs := by
  unfold State.onCx; split <;> rfl
@[simp] theorem State.onCx_agenda (s : State) (f : Ctx → Ctx) : (s.onCx f).agenda = s.agenda := by
  unfold State.onCx; split <;> rfl
@[simp] theorem State.onCx_nextId (s : State) (f : Ctx → Ctx) : (s.onCx f).nextId = s.nextId := by
  unfold State.onCx; split <;> rfl
@[simp] theorem State.onCx_freeCtr (s : State) (f : Ctx → Ctx) : (s.onCx f).freeCtr = s.freeCtr := by
  unfold State.onCx; split <;> rfl
@[simp] theorem State.onCx_cur (s : State) (f : Ctx → Ctx) : (s.onCx f).cur = s.cur := by
  unfold State.onCx; split <;> rfl
@[simp] theorem State.onCx_slot (s : State) (f : Ctx → Ctx) : (s.onCx f).slot = s.slot := by
  unfold State.onCx; split <;> rfl

/-! ### onRegs -/

@[simp] theorem State.onRegs_now (s : State) (f : Regs → Regs) : (s.onRegs f).now = s.now := State.onCx_now ..
@[simp] theorem State.onRegs_timeOff (s : State) (f : Regs → Regs) : (s.onRegs f).timeOff = s.timeOff := State.onCx_timeOff ..
@[simp] theorem State.onRegs_timeAt (s : State) (f : Regs → Regs) : (s.onRegs f).timeAt = s.timeAt := State.onCx_timeAt ..
@[simp] theorem State.onRegs_slew (s : State) (f : Regs → Regs) : (s.onRegs f).slew = s.slew := State.onCx_slew ..
@[simp] theorem State.onRegs_pkg (s : State) (f : Regs → Regs) : (s.onRegs f).pkg = s.pkg := State.onCx_pkg ..
@[simp] theorem State.onRegs_dram (s : State) (f : Regs → Regs) : (s.onRegs f).dram = s.dram := State.onCx_dram ..
@[simp] theorem State.onRegs_host (s : State) (f : Regs → Regs) : (s.onRegs f).host = s.host := State.onCx_host ..
@[simp] theorem State.onRegs_peer (s : State) (f : Regs → Regs) : (s.onRegs f).peer = s.peer := State.onCx_peer ..
@[simp] theorem State.onRegs_poison (s : State) (f : Regs → Regs) : (s.onRegs f).poison = s.poison := State.onCx_poison ..
@[simp] theorem State.onRegs_sysCache (s : State) (f : Regs → Regs) : (s.onRegs f).sysCache = s.sysCache := State.onCx_sysCache ..
@[simp] theorem State.onRegs_peerPoison (s : State) (f : Regs → Regs) : (s.onRegs f).peerPoison = s.peerPoison := State.onCx_peerPoison ..
@[simp] theorem State.onRegs_frames (s : State) (f : Regs → Regs) : (s.onRegs f).frames = s.frames := State.onCx_frames ..
@[simp] theorem State.onRegs_syncLines (s : State) (f : Regs → Regs) : (s.onRegs f).syncLines = s.syncLines := State.onCx_syncLines ..
@[simp] theorem State.onRegs_incomplete (s : State) (f : Regs → Regs) : (s.onRegs f).incomplete = s.incomplete := State.onCx_incomplete ..
@[simp] theorem State.onRegs_regions (s : State) (f : Regs → Regs) : (s.onRegs f).regions = s.regions := State.onCx_regions ..
@[simp] theorem State.onRegs_ports (s : State) (f : Regs → Regs) : (s.onRegs f).ports = s.ports := State.onCx_ports ..
@[simp] theorem State.onRegs_unreachable (s : State) (f : Regs → Regs) : (s.onRegs f).unreachable = s.unreachable := State.onCx_unreachable ..
@[simp] theorem State.onRegs_groups (s : State) (f : Regs → Regs) : (s.onRegs f).groups = s.groups := State.onCx_groups ..
@[simp] theorem State.onRegs_colls (s : State) (f : Regs → Regs) : (s.onRegs f).colls = s.colls := State.onCx_colls ..
@[simp] theorem State.onRegs_lantern (s : State) (f : Regs → Regs) : (s.onRegs f).lantern = s.lantern := State.onCx_lantern ..
@[simp] theorem State.onRegs_funcs (s : State) (f : Regs → Regs) : (s.onRegs f).funcs = s.funcs := State.onCx_funcs ..
@[simp] theorem State.onRegs_clusters (s : State) (f : Regs → Regs) : (s.onRegs f).clusters = s.clusters := State.onCx_clusters ..
@[simp] theorem State.onRegs_parts (s : State) (f : Regs → Regs) : (s.onRegs f).parts = s.parts := State.onCx_parts ..
@[simp] theorem State.onRegs_inputs (s : State) (f : Regs → Regs) : (s.onRegs f).inputs = s.inputs := State.onCx_inputs ..
@[simp] theorem State.onRegs_errs (s : State) (f : Regs → Regs) : (s.onRegs f).errs = s.errs := State.onCx_errs ..
@[simp] theorem State.onRegs_agenda (s : State) (f : Regs → Regs) : (s.onRegs f).agenda = s.agenda := State.onCx_agenda ..
@[simp] theorem State.onRegs_nextId (s : State) (f : Regs → Regs) : (s.onRegs f).nextId = s.nextId := State.onCx_nextId ..
@[simp] theorem State.onRegs_freeCtr (s : State) (f : Regs → Regs) : (s.onRegs f).freeCtr = s.freeCtr := State.onCx_freeCtr ..
@[simp] theorem State.onRegs_cur (s : State) (f : Regs → Regs) : (s.onRegs f).cur = s.cur := State.onCx_cur ..
@[simp] theorem State.onRegs_slot (s : State) (f : Regs → Regs) : (s.onRegs f).slot = s.slot := State.onCx_slot ..

end Sys2Proof.Machine
end

