-- ==== Sys2Proof/Laws/Issue.lean ====
section
/-! SUPPORT. What the end of an issue answers, one lemma for each way an issue goes (R71 to R75), and when an instruction
is ready. -/

namespace Sys2Proof.Machine

theorem State.ready_iff {s : State} {i : Instr} : s.ready i = true ↔
    s.scoreboarded i = false
      ∧ (s.tile s.curTile).needsMove s.curCtx (insNames i) (insWrite i).toList = false := by
  simp [State.ready]

/-- Of an instruction with nothing scoreboarded the issue alone tells a block. -/
theorem State.blocks_eq {s : State} {i : Instr} (h : s.scoreboarded i = false) (k : Issue) : s.blocks i k = k.isBlock := by
  simp [State.blocks, h]

/-- A ready instruction ends as its issue says: a trap, a block, or its effect where that finds room. -/
theorem State.conclude_ready {s : State} {i : Instr} (h : s.ready i = true) (k : Issue) :
    s.conclude i k = match k with
      | .trap c => .next (s.trapCur c)
      | .block => .next (s.blocked i)
      | .stall => .next s
      | .ok eff => .next ((eff s).getD s) := by
  rw [State.ready_iff] at h
  cases k with
  | trap c => cases c <;> simp [State.conclude, State.blocks_eq h.1, Issue.isCombination, Issue.isBlock, Issue.isStall, h]
  | ok eff =>
    cases he : eff s <;>
      simp [State.conclude, State.blocks_eq h.1, Issue.isCombination, Issue.isBlock, Issue.isStall, h, he]
  | _ => simp [State.conclude, State.blocks_eq h.1, Issue.isCombination, Issue.isBlock, Issue.isStall, h.1]

/-- An effect that finds room is taken. -/
theorem State.conclude_ok {s s1 : State} {i : Instr} {eff : State → Option State} (h : s.ready i = true)
    (he : eff s = some s1) : s.conclude i (.ok eff) = .next s1 := by
  simp [State.conclude_ready h, he]

/-- An effect that finds no room changes nothing. -/
theorem State.conclude_none {s : State} {i : Instr} {eff : State → Option State} (h : s.ready i = true)
    (he : eff s = none) : s.conclude i (.ok eff) = .next s := by
  simp [State.conclude_ready h, he]

/-- An effect that always finds room is taken. -/
theorem State.conclude_done {s : State} {i : Instr} {f : State → State} (h : s.ready i = true) :
    s.conclude i (.done f) = .next (f s) := State.conclude_ok h rfl

/-- A failed check traps. -/
theorem State.conclude_trap {s : State} {i : Instr} {c : Cause} (h : s.ready i = true) :
    s.conclude i (.trap c) = .next (s.trapCur c) := State.conclude_ready h _

theorem State.conclude_stall {s : State} {i : Instr} (h : s.ready i = true) : s.conclude i .stall = .next s :=
  State.conclude_ready h _

/-- A block leaves what `blocked` says. -/
theorem State.conclude_block {s : State} {i : Instr} (h : s.ready i = true) :
    s.conclude i .block = .next (s.blocked i) := State.conclude_ready h _

/-- A check that holds passes on. -/
@[simp] theorem Issue.check_pos {b : Bool} {c : Cause} {k : Issue} (h : b = true) : Issue.check b c k = k := by
  simp [Issue.check, h]

theorem Issue.check_neg {b : Bool} {c : Cause} {k : Issue} (h : b = false) : Issue.check b c k = .trap c := by
  simp [Issue.check, h]

theorem Tile.needsMove_nil (x : Tile) (c : CtxNo) : x.needsMove c [] [] = false := by
  simp [Tile.needsMove, Tile.spilledIn, Tile.unmappedIn]

/-- An instruction that names no register and acts on no barrier is ready. -/
theorem State.ready_of_bare (s : State) (i : Instr) (h : insXs i = []) (h2 : insNames i = [])
    (h3 : insWrite i = none) (h4 : actsOnBar i = false) : s.ready i = true := by
  have : s.scoreboarded i = false := by
    simp only [State.scoreboarded, State.behindRef, h, h2, h4, Bool.false_and, Bool.false_or]
    rw [List.any_eq_false]
    intro g _
    cases insGX g.ins.ins <;> simp <;> split <;> simp
  simp [State.ready, this, h2, h3, Tile.needsMove_nil]

end Sys2Proof.Machine
end

