-- ==== Sys2Proof/Laws/Mem.lean ====
section
/-! SUPPORT. The laws of byte memories: the canonical form, which every operation keeps, and what is read after a write. -/

namespace Sys2Proof.Machine

/-- The canonical form, said of the cells: addresses rise strictly and no cell is blank. -/
theorem Mem.wf_iff (m : Mem) :
    Mem.wf m = true ↔ m.Pairwise (fun c d => c.1 < d.1) ∧ ∀ c ∈ m, c.2 ≠ Mem.blank := by
  induction m with
  | nil => simp [Mem.wf]
  | cons c m ih =>
    cases m with
    | nil => obtain ⟨a, v⟩ := c; simp [Mem.wf]
    | cons d m =>
      obtain ⟨a, v⟩ := c
      obtain ⟨b, w⟩ := d
      simp only [Mem.wf, Bool.and_eq_true, bne_iff_ne, decide_eq_true_eq, ih]
      rw [List.pairwise_cons (a := (a, v))]
      constructor
      · rintro ⟨⟨hv, hab⟩, hp, hb⟩
        refine ⟨⟨fun x hx => ?_, hp⟩, fun x hx => ?_⟩
        · rcases List.mem_cons.1 hx with rfl | hx
          · exact hab
          · exact Nat.lt_trans hab (List.rel_of_pairwise_cons hp hx)
        · rcases List.mem_cons.1 hx with rfl | hx
          · exact hv
          · exact hb x hx
      · rintro ⟨⟨h1, hp⟩, hb⟩
        exact ⟨⟨hb _ List.mem_cons_self, h1 _ List.mem_cons_self⟩, hp, fun x hx => hb x (List.mem_cons_of_mem _ hx)⟩

theorem Mem.wf_nil : Mem.wf [] = true := rfl

theorem Mem.wf_tail {c : Host.Cell} {m : Mem} (h : Mem.wf (c :: m) = true) : Mem.wf m = true := by
  rw [Mem.wf_iff] at h ⊢
  exact ⟨(List.pairwise_cons.1 h.1).2, fun x hx => h.2 x (List.mem_cons_of_mem _ hx)⟩

/-- Dropping cells keeps the form. -/
theorem Mem.wf_filter {m : Mem} (h : Mem.wf m = true) (p : Host.Cell → Bool) : Mem.wf (m.filter p) = true := by
  rw [Mem.wf_iff] at h ⊢
  exact ⟨h.1.filter p, fun x hx => h.2 x (List.mem_filter.1 hx).1⟩

theorem Mem.mem_cellsOf {c : Host.Cell} {a : Nat} {vs : List Byte} (h : c ∈ Mem.cellsOf a vs) :
    a ≤ c.1 ∧ c.1 < a + vs.length ∧ c.2 ≠ Mem.blank ∧ vs[c.1 - a]? = some c.2 := by
  induction vs generalizing a with
  | nil => simp [Mem.cellsOf] at h
  | cons v vs ih =>
    rw [Mem.cellsOf] at h
    have later : c ∈ Mem.cellsOf (a + 1) vs →
        a ≤ c.1 ∧ c.1 < a + (v :: vs).length ∧ c.2 ≠ Mem.blank ∧ (v :: vs)[c.1 - a]? = some c.2 := by
      intro h
      obtain ⟨h1, h2, h3, h4⟩ := ih h
      refine ⟨by omega, by simp only [List.length_cons]; omega, h3, ?_⟩
      rw [show c.1 - a = (c.1 - (a + 1)) + 1 by omega]
      simpa using h4
    split at h
    · exact later h
    · next hv =>
      rcases List.mem_cons.1 h with rfl | h
      · simp [hv]
      · exact later h

theorem Mem.cellsOf_pairwise (a : Nat) (vs : List Byte) :
    (Mem.cellsOf a vs).Pairwise (fun c d => c.1 < d.1) := by
  induction vs generalizing a with
  | nil => simp [Mem.cellsOf]
  | cons v vs ih =>
    rw [Mem.cellsOf]
    split
    · exact ih (a + 1)
    · exact List.pairwise_cons.2 ⟨fun x hx => (Mem.mem_cellsOf hx).1, ih (a + 1)⟩

/-- Writing bytes keeps the form. -/
theorem Mem.wf_writeBytes {m : Mem} (h : Mem.wf m = true) (a : Nat) (vs : List Byte) :
    Mem.wf (Mem.writeBytes m a vs) = true := by
  rw [Mem.wf_iff] at h ⊢
  refine ⟨?_, ?_⟩
  · rw [Mem.writeBytes, List.pairwise_append, List.pairwise_append]
    refine ⟨⟨h.1.filter _, Mem.cellsOf_pairwise a vs, ?_⟩, h.1.filter _, ?_⟩
    · intro x hx y hy
      have := (Mem.mem_cellsOf hy).1
      have hx := (List.mem_filter.1 hx).2
      simp only [decide_eq_true_eq] at hx
      omega
    · intro x hx y hy
      have hy := (List.mem_filter.1 hy).2
      simp only [decide_eq_true_eq] at hy
      rcases List.mem_append.1 hx with hx | hx
      · have hx := (List.mem_filter.1 hx).2
        simp only [decide_eq_true_eq] at hx
        omega
      · have := (Mem.mem_cellsOf hx).2.1
        omega
  · intro x hx
    rcases List.mem_append.1 hx with hx | hx
    · rcases List.mem_append.1 hx with hx | hx
      · exact h.2 x (List.mem_filter.1 hx).1
      · exact (Mem.mem_cellsOf hx).2.2.1
    · exact h.2 x (List.mem_filter.1 hx).1

/-- A listed cell is what its address reads as. -/
theorem Mem.read_of_mem {m : Mem} (h : Mem.wf m = true) {a : Nat} {v : Byte} (hc : (a, v) ∈ m) : Mem.read m a = v := by
  induction m with
  | nil => cases hc
  | cons c m ih =>
    obtain ⟨k, w⟩ := c
    rcases List.mem_cons.1 hc with e | hc
    · cases e; simp [Mem.read]
    · have hk : k < a := by
        rw [Mem.wf_iff] at h
        exact List.rel_of_pairwise_cons h.1 hc
      rw [Mem.read, if_neg (by omega), if_neg (by omega)]
      exact ih (Mem.wf_tail h) hc

/-- An address with no cell reads blank. -/
theorem Mem.read_of_not_mem {m : Mem} {a : Nat} (h : ∀ v, (a, v) ∉ m) : Mem.read m a = Mem.blank := by
  induction m with
  | nil => rfl
  | cons c m ih =>
    obtain ⟨k, w⟩ := c
    rw [Mem.read]
    split
    · next e => subst e; exact absurd List.mem_cons_self (h w)
    · split
      · rfl
      · exact ih fun v hv => h v (List.mem_cons_of_mem _ hv)

/-- What a byte reads as, said of the cells. -/
theorem Mem.read_eq_iff {m : Mem} (h : Mem.wf m = true) (a : Nat) (v : Byte) (hv : v ≠ Mem.blank) :
    Mem.read m a = v ↔ (a, v) ∈ m := by
  refine ⟨fun e => ?_, Mem.read_of_mem h⟩
  by_cases hc : ∃ w, (a, w) ∈ m
  · obtain ⟨w, hw⟩ := hc
    rw [Mem.read_of_mem h hw] at e
    exact e ▸ hw
  · rw [Mem.read_of_not_mem (by simpa using hc)] at e
    exact absurd e.symm hv

theorem Mem.mem_cellsOf_of_get {a i : Nat} {vs : List Byte} {v : Byte} (hv : v ≠ Mem.blank) (h : vs[i]? = some v) :
    (a + i, v) ∈ Mem.cellsOf a vs := by
  induction vs generalizing a i with
  | nil => simp at h
  | cons w vs ih =>
    rw [Mem.cellsOf]
    cases i with
    | zero =>
      simp only [List.getElem?_cons_zero, Option.some.injEq] at h
      subst h
      simp [hv]
    | succ i =>
      have := ih (a := a + 1) (i := i) (by simpa using h)
      rw [show a + (i + 1) = a + 1 + i by omega]
      split
      · exact this
      · exact List.mem_cons_of_mem _ this

/-- A byte outside what is written reads as before. -/
theorem Mem.read_writeBytes_other {m : Mem} (h : Mem.wf m = true) (a : Nat) (vs : List Byte) {i : Nat}
    (hi : i < a ∨ a + vs.length ≤ i) : Mem.read (Mem.writeBytes m a vs) i = Mem.read m i := by
  have hw := Mem.wf_writeBytes h a vs
  have key : ∀ v, (i, v) ∈ Mem.writeBytes m a vs ↔ (i, v) ∈ m := by
    intro v
    simp only [Mem.writeBytes, List.mem_append, List.mem_filter, decide_eq_true_eq]
    constructor
    · rintro ((h | h) | h)
      · exact h.1
      · have := Mem.mem_cellsOf h; omega
      · exact h.1
    · intro hm
      rcases hi with hi | hi
      · exact .inl (.inl ⟨hm, hi⟩)
      · exact .inr ⟨hm, hi⟩
  by_cases hc : ∃ v, (i, v) ∈ m
  · obtain ⟨v, hv⟩ := hc
    rw [Mem.read_of_mem h hv, Mem.read_of_mem hw ((key v).2 hv)]
  · have hc : ∀ v, (i, v) ∉ m := by simpa using hc
    rw [Mem.read_of_not_mem hc, Mem.read_of_not_mem fun v hv => hc v ((key v).1 hv)]

/-- A byte that is written reads as what was written there. -/
theorem Mem.read_writeBytes_at {m : Mem} (h : Mem.wf m = true) (a : Nat) (vs : List Byte) {i : Nat} {v : Byte}
    (hi : vs[i]? = some v) : Mem.read (Mem.writeBytes m a vs) (a + i) = v := by
  have hw := Mem.wf_writeBytes h a vs
  have hl : i < vs.length := (List.getElem?_eq_some_iff.1 hi).1
  by_cases hv : v = Mem.blank
  · subst hv
    refine Mem.read_of_not_mem fun w hm => ?_
    simp only [Mem.writeBytes, List.mem_append, List.mem_filter, decide_eq_true_eq] at hm
    rcases hm with (hm | hm) | hm
    · omega
    · obtain ⟨-, -, h3, h4⟩ := Mem.mem_cellsOf hm
      simp only [Nat.add_sub_cancel_left, hi, Option.some.injEq] at h4
      exact h3 h4.symm
    · omega
  · exact Mem.read_of_mem hw (List.mem_append_left _ (List.mem_append_right _ (Mem.mem_cellsOf_of_get hv hi)))

theorem Mem.wf_writeNat {m : Mem} (h : Mem.wf m = true) (a n v : Nat) : Mem.wf (Mem.writeNat m a n v) = true :=
  Mem.wf_writeBytes h a _

/-! ### The memories of the machine at reset -/

theorem State.reset_dram : State.reset.dram = [] := rfl
theorem State.reset_host : State.reset.host = [] := rfl
theorem State.reset_peer : State.reset.peer = [] := rfl

end Sys2Proof.Machine
end

