-- ==== Sys2Proof/Laws/Ops.lean ====
section
/-! SUPPORT. What each shared operation answers, one lemma for each way it goes: results put in flight, the checks of a bay
access, bytes written at a home and through the page tables, taking an exception and returning from one. -/

namespace Sys2Proof.Machine

/-! ### Results in flight (R69, R70) -/

/-- A result for X0 is discarded. -/
@[simp] theorem State.flyX_zero (s : State) (lat : Nat) (v : Word) (fl : Fl) : s.flyX lat 0 v fl = s := by
  simp [State.flyX, State.fly, Dest.isX0]

/-- A result changes the acting context's flight and nothing else. -/
theorem State.fly_eq (s : State) (lat : Nat) {d : Dest} (val : Word) (vec : VImage) (mask : Mask) (fl : Fl) (mnar : Bool)
    (h : d.isX0 = false) : s.fly lat d val vec mask fl mnar = s.onCx fun x =>
      { x with flight := insertFlight ⟨s.clock, s.clock + lat, s.slot.index, d, val, vec, mask, fl, mnar⟩ x.flight } := by
  simp [State.fly, h]

/-- A scalar result leaves the registers as they are until it lands. -/
theorem State.flyX_regs {s : State} {t : TileNo} {c : CtxNo} (h : s.cur = .hw t c) (lat : Nat) (d : XReg) (v : Word) (fl : Fl) :
    (s.flyX lat d v fl).cx.regs = s.cx.regs := by
  unfold State.flyX State.fly
  split
  · rfl
  · dsimp only
    rw [State.cx_onCx h]

/-- What stands in flight after a result joined. -/
theorem mem_insertFlight {f g : Flight} {fs : List Flight} : g ∈ insertFlight f fs ↔ g = f ∨ g ∈ fs := by
  induction fs with
  | nil => simp [insertFlight]
  | cons a as ih =>
    simp only [insertFlight]
    split
    · simp
    · simp only [List.mem_cons, ih]
      tauto

/-! ### Bay accesses (R183 to R187) -/

/-- A bay access goes through exactly where every check holds, and answers where the visible part starts. -/
theorem State.bayAccess_ok (s : State) (n : BayNo) (u : BayUse) (ea align : Nat) (spans : List (Nat × Nat)) (o : Nat) :
    s.bayAccess n u ea align spans = .ok o ↔
      (s.bay n).admits s.curCtx = true ∧ (u = .barrier ∨ u = .barrierRead → (s.bay n).sync = true)
        ∧ (u = .store → (s.bay n).sync = false) ∧ ea % align = 0 ∧ (∀ q ∈ spans, q.1 + q.2 ≤ (s.bay n).len)
        ∧ u.admits (s.bay n).st = true ∧ o = (s.bay n).start_ false := by
  by_cases h1 : (s.bay n).admits s.curCtx = true
  · by_cases h2 : (u = .barrier ∨ u = .barrierRead) ∧ (s.bay n).sync = false
    · simp [State.bayAccess, h1, h2]
    · by_cases h3 : u = .store ∧ (s.bay n).sync = true
      · simp [State.bayAccess, h1, h3]
      · by_cases h4 : ea % align = 0
        · by_cases h5 : ∀ q ∈ spans, q.1 + q.2 ≤ (s.bay n).len
          · have h5' : (spans.all fun q => decide (q.1 + q.2 ≤ (s.bay n).len)) = true := by simpa using h5
            by_cases h6 : u.admits (s.bay n).st = true
            · simp only [State.bayAccess, h1, h4, h5', h6, Bool.not_true, Bool.false_eq_true, if_false, ne_eq,
                not_true_eq_false, Bool.not_eq_true', h2, h3, Except.ok.injEq, true_and, eq_comm (a := o)]
              refine ⟨fun e => ⟨fun hu => ?_, fun hu => ?_, h5, e⟩, fun e => e.2.2.2⟩
              · simpa using fun hs => h2 ⟨hu, hs⟩
              · simpa using fun hs => h3 ⟨hu, hs⟩
            · simp [State.bayAccess, h1, h2, h3, h4, h5', h6]
          · have h5' : (spans.all fun q => decide (q.1 + q.2 ≤ (s.bay n).len)) = false := by simpa using h5
            simp [State.bayAccess, h1, h2, h3, h4, h5']
            intro _ _ h
            exact absurd (fun (q : Nat × Nat) hq => h q.1 q.2 hq) h5
        · simp [State.bayAccess, h1, h2, h3, h4]
  · simp [State.bayAccess, h1]

/-! ### Barriers -/

/-- What a context holds or has under way nowhere settles nothing at a barrier of its tile (R192). -/
theorem State.settled_of_idle {s : State} {t : TileNo} {c : CtxNo} (hc : s.cur = .hw t c) (hh : (s.ctxAt t c).hold = [])
    (ha : s.agenda = []) (o : Nat) : s.settleRefs o = s := by
  simp [State.settleRefs, hc, hh, ha]

/-! ### Bytes at homes -/

/-- The state but for what a write at a home can change: the memories, the system cache, the poison and the written
regions. -/
def State.sameButMems (s s' : State) : Prop := { s' with
  dram := s.dram, host := s.host, peer := s.peer, poison := s.poison, peerPoison := s.peerPoison, sysCache := s.sysCache,
  regions := s.regions } = s

theorem State.sameButMems_refl (s : State) : s.sameButMems s := rfl

theorem State.sameButMems.trans {s r q : State} (h : s.sameButMems r) (h2 : r.sameButMems q) : s.sameButMems q := by
  unfold State.sameButMems at *
  rw [← h]
  rw [← h2]

/-- A write at a home touches nothing else. -/
theorem State.homeWrite_mems (s : State) (h : Home) (bs : List Byte) : s.sameButMems (s.homeWrite h bs) := by
  cases h with
  | dram a => rfl
  | host a => rfl
  | peer d a =>
    simp only [State.homeWrite]
    split <;> rfl

/-- What each step of a fold leaves alone, the whole fold leaves alone. -/
theorem State.foldl_mems {α : Type} (f : State → α → State) (hf : ∀ (s : State) (a : α), s.sameButMems (f s a)) (l : List α) (s : State) :
    s.sameButMems (l.foldl f s) := by
  induction l generalizing s with
  | nil => rfl
  | cons a as ih => exact (hf s a).trans (ih (f s a))

/-- So does a write of the hub through the page tables. -/
theorem State.hubWrite_mems (s : State) (p : PartNo) (a : Nat) (bs : List Byte) : s.sameButMems (s.hubWrite p a bs) := by
  unfold State.hubWrite
  split
  · refine State.foldl_mems _ (fun r q => ?_) _ s
    split
    · exact State.homeWrite_mems ..
    · rfl
  · rfl

theorem State.hubWrite_tiles (s : State) (p : PartNo) (a : Nat) (bs : List Byte) : (s.hubWrite p a bs).tiles = s.tiles := by
  have h := s.hubWrite_mems p a bs
  unfold State.sameButMems at h
  exact (congrArg State.tiles h :)

/-- A write that one byte of does not translate is not made at all. -/
theorem State.hubWrite_bad {s : State} {p : PartNo} {a : Nat} {bs : List Byte} (h : s.canWrite p a bs.length = false) :
    s.hubWrite p a bs = s := by
  simp [State.hubWrite, h]

/-! ### Exceptions (R303 to R311) -/

/-- With no frame live and a frame area that takes one, the frame is written and the context stands at its handler. -/
theorem State.takeTrap_taken {s : State} {t : TileNo} {c : CtxNo} (cause : Cause) (slot arg : Nat) (epc : Word)
    (report engine : Bool) (h1 : (s.ctxAt t c).frame = none) (h2 : s.frameOk t c = true) :
    s.takeTrap t c cause slot arg epc report engine =
      (s.writeFrame t c (s.newFrame t c (causeWord cause slot false arg) epc report engine)).onCtx t c fun x =>
        x.entered (s.newFrame t c (causeWord cause slot false arg) epc report engine) (s.tile t).cycle := by
  simp [State.takeTrap, h1, h2]

/-- Otherwise the entry is a double fault. -/
theorem State.takeTrap_double {s : State} {t : TileNo} {c : CtxNo} (cause : Cause) (slot arg : Nat) (epc : Word)
    (report engine : Bool) (h : (s.ctxAt t c).frame.isSome ∨ s.frameOk t c = false) :
    s.takeTrap t c cause slot arg epc report engine = s.doubleFault t c := by
  simp [State.takeTrap, h]

/-- What every entry does to the registers. -/
theorem Ctx.entered_regs (x : Ctx) (f : Frame) (now : Nat) :
    (x.entered f now).regs = { x.regs.clearSeq with
      tepc := f.epc, tcause := f.cause, pprv := x.regs.priv == .S, priv := .S, pc := x.regs.handler, ld := 0, st := 0 } := rfl

/-- ERET with no frame live. -/
theorem State.returnTrap_bare {s : State} {t : TileNo} {c : CtxNo} (h : (s.ctxAt t c).frame = none) :
    s.returnTrap t c = s.onCtx t c fun x => x.returnedBare (s.tile t).cycle := by
  simp [State.returnTrap, h]

/-- ERET with a live frame in which every fault has been reported. -/
theorem State.returnTrap_returned {s : State} {t : TileNo} {c : CtxNo} {f : Frame} (h : (s.ctxAt t c).frame = some f)
    (h2 : f.unreported = none) : s.returnTrap t c = s.onCtx t c fun x => x.returned f (s.tile t).cycle := by
  simp [State.returnTrap, h, h2]

/-- ERET with a fault not yet reported enters the handler again. -/
theorem State.returnTrap_reenter {s : State} {t : TileNo} {c : CtxNo} {f : Frame} {g : GAcc}
    (h : (s.ctxAt t c).frame = some f) (h2 : f.unreported = some g) :
    s.returnTrap t c = (s.onCtx t c fun x => x.reenter f g (s.tile t).cycle).syncFrame t c := by
  simp [State.returnTrap, h, h2]

end Sys2Proof.Machine
end

