-- ==== Sys2Proof/Tests/Slice0.lean ====
section
/-! SUPPORT. The model's own tests: ill-formed terms that the check refuses, words written out from the spec's encodings,
and for each claim with hypotheses a state that meets them. -/

namespace Sys2Proof.Tests

open Sys2Proof.Machine

set_option maxRecDepth 100000
set_option Elab.async false

/-! ### Ill-formed terms, one for each check of WellFormed -/

/-- A copy's control word with nothing asked for. -/
def ctl : CopyCtl := ⟨none, none, false, false, false, .bay, .global⟩

theorem test_wf_branch : (Instr.br .al 0 0 6).wf = false ∧ (Instr.call 1 2).wf = false ∧ (Instr.brmz 1).wf = false
    ∧ (Instr.brmf 3).wf = false ∧ (Instr.br .al 0 0 8).wf = true := by decide

theorem test_wf_lrun : (Instr.lrun 2 1 1).wf = false ∧ (Instr.lrun 0 1 0).wf = false ∧ (Instr.lrun 0 1 65).wf = false
    ∧ (Instr.lrun 0 1 64).wf = true := by decide

theorem test_wf_live : (Instr.waitb 1 2 3 ⟨1, 0, 0⟩).wf = false ∧ (Instr.tcont 1 2 3 ⟨1, 0, 0⟩).wf = false
    ∧ (Instr.tcont 1 2 3 ⟨2, 0, 0⟩).wf = true := by decide

theorem test_wf_tdep : (Instr.tdep 1 0).wf = false ∧ (Instr.tdep 1 1).wf = true := by decide

theorem test_wf_column : (Instr.vrotc 1 ⟨2, false⟩ (.imm 16)).wf = false ∧ (Instr.vbcc 1 ⟨2, false⟩ (.imm 63)).wf = false
    ∧ (Instr.vrotc 1 ⟨2, false⟩ (.imm 15)).wf = true := by decide

theorem test_wf_streams : (Instr.mskip 0 none none false).wf = false ∧ (Instr.mdrain false false false).wf = false
    ∧ (Instr.mskip 0 none none true).wf = true := by decide

theorem test_wf_rows : (Instr.pldb 1 ⟨0, 0, false, 0⟩ 8 8).wf = false ∧ (Instr.pstb ⟨1, false⟩ ⟨0, 0, false, 0⟩ 15 1).wf = false
    ∧ (Instr.pldb 1 ⟨0, 0, false, 0⟩ 8 7).wf = true := by decide

theorem test_wf_copies : (Instr.cpy 1 2 3 4 { ctl with defer := some 1 }).wf = false
    ∧ (Instr.cpy 1 2 3 4 { ctl with keep := true }).wf = false ∧ (Instr.cpyi 1 2 3 ctl 0).wf = false
    ∧ (Instr.cpys 1 2 3 4 { ctl with bin := true }).wf = false ∧ (Instr.cpyb 1 2 3 4 { ctl with bout := true }).wf = false
    ∧ (Instr.cpyb 1 2 3 4 { ctl with dsp := .global }).wf = false ∧ (Instr.cpyb 1 2 3 4 ctl).wf = true := by decide

theorem test_wf_counts : (Instr.pub 0).wf = false
    ∧ (Instr.collAllreduce 1 2 3 ⟨0, none, .f32, false, false, false, false⟩ 0).wf = false
    ∧ (Instr.collBcast 1 2 3 4 ⟨0, none, .f32, false, false, false, false⟩ 0x10000001).wf = false
    ∧ (Instr.sncfgCreate 1 2 0 false 0).wf = false ∧ (Instr.sncfgCreate 1 2 0 false 262144).wf = false
    ∧ (Instr.pub 1).wf = true := by decide

/-! ### Words written out from the encoding tables (R76 to R79), a few for each family -/

theorem test_decode_control : decodeTableWord 32 0x000000F0 = some .texit
    ∧ decodeTableWord 64 0x00000003004000A1 = some (.lrun 0 1 3) := by decide

theorem test_decode_scalar : decodeTableWord 32 0x298E0200 = some (.add 5 6 7)
    ∧ decodeTableWord 32 0x404203A0 = some (.amov (.fromA 8 1)) := by decide

theorem test_decode_vector : decodeTableWord 32 0x10020400 = some (.vaddF 2 ⟨0, false⟩ (.v ⟨1, false⟩))
    ∧ decodeTableWord 32 0x38D24460 = some (.vfmaF 7 ⟨3, false⟩ (.x 9))
    ∧ decodeTableWord 32 0x090A0530 = some (.vcmpF .lt ⟨4, false⟩ (.v ⟨5, false⟩))
    ∧ decodeTableWord 64 0x00000003088105A1 = some (.vrotc 1 ⟨2, true⟩ (.imm 3)) := by decide

theorem test_decode_matrix : decodeTableWord 32 0x43020700 = some (.mma 2 3 .rb8 .rb8 true)
    ∧ decodeTableWord 32 0x20BE8730 = some (.mzero 1 (some 250)) := by decide

theorem test_decode_pslot : decodeTableWord 64 0x0000010018A50801 = some (.pld 3 ⟨5, 2, true, 0x100⟩)
    ∧ decodeTableWord 64 0x000B0000780088B1 = some (.barvR 15 11) := by decide

theorem test_decode_gslot : decodeTableWord 64 0x8000001021D209C1 = some (.gatom .add .dev 4 9 ⟨7, 0x10⟩) := by decide

theorem test_decode_engine :
    decodeTableWord 64 0x0004C0885B1AEB01 = some (.cpy 11 12 13 14 ⟨some 3, none, false, true, false, .bay, .global⟩)
    ∧ decodeTableWord 64 0x0000000028443B61 = some (.snfind 5 1 2 3 false)
    ∧ decodeTableWord 64 0x0000000221400BD1 = some (.cgrpJoin 4 5 2) := by decide

theorem test_decode_system : decodeTableWord 64 0x0000010505000C91 = some (.csrw 0 20 0x105)
    ∧ decodeTableWord 32 0x12345CC0 = some (.trap 0x12345) ∧ decodeTableWord 32 0x19000CF0 = some (.pwrq 3 4) := by decide

/-- With flag L set (R70), ADDI with its extension word. -/
theorem test_decode_flags : decodeTableWord 64 0x0000000131800229 = some (.addi 6 6 1) := by decide


/-! ### Small states -/

/-- Did the machine go on? -/
def isNext : Host.Outcome State Fault Refusal → Bool
  | .next _ => true
  | _ => false

/-- Page tables with one leaf: the 2 MiB at address 0, writable, at the device address 2 MiB. -/
def pages : Map Word := [(0x10000000, 0x10001001), (0x10001000, 0x10002001), (0x10002000, 0x200007)]

/-- Partition 0 on cluster 0 at level 7, T0's context 0 bound in U and acting, with the pages mapped and memory for
frames. -/
def base : State :=
  let s := State.reset.withFetchWord 32 0
  { s with parts := s.parts.set 0 { Partition.start with live := true, tframe := 0x10000000, pt := pages },
           clusters := s.clusters.set 0 { s.clusters[0] with level := 7 }, cur := .hw 0 0 }

/-- As `base`, with its context changed. -/
def ctxOf (f : Ctx → Ctx) : State := base.onCx f

/-- As `base`, with its registers changed. -/
def regsOf (f : Regs → Regs) : State := base.onRegs f

/-- As `base`, with its tile changed. -/
def tileOf0 (f : Tile → Tile) : State := base.onTile 0 f

/-- X1, X2 and X3 at three values. -/
def xsOf (a b c : Word) : State := regsOf fun g => ((g.setX 1 a).setX 2 b).setX 3 c

/-- `base` in S. -/
def sup : State := regsOf fun g => { g with priv := .S }

/-- A location of form N: bay 5, A0, displacement 0. -/
def loc : PLoc := ⟨5, 0, false, 0⟩

/-! ### What meets the hypotheses of each claim -/

theorem witness_DecodeOfEncode : (Instr.add 5 6 7).isWord = true ∧ (Instr.add 5 6 7).wf = true := by decide +kernel

theorem witness_DecoderKeepsLimits :
    decodeWords (some .S) [0x298E0200] = .ok (⟨.add 5 6 7, false, false⟩, [])
    ∧ opcSlot (opcOf ((encode ⟨.add 5 6 7, false, false⟩).headD 0).toNat) .P = false := by decide +kernel

theorem witness_StepTakes :
    (let s : State := { base with inputs := [(0, .freeze)] };
      takeFirst s.inputDue s.inputs = some (.freeze, []))
    ∧ (let s : State := { State.reset with agenda := [⟨0, 0, .patrolScrub⟩] };
      takeFirst s.inputDue s.inputs = none ∧ s.dueTile = none ∧ s.pkg.frozen = false ∧ 0 ≤ s.now) := by decide +kernel

theorem witness_ExecIsIssue : ∀ i ∈ [Instr.add 1 2 3, .texit, .waitb 1 2 3 ⟨0, 0, 0⟩, .tcont 1 2 3 ⟨0, 0, 0⟩, .trap 0, .sysc 0],
    i.isWord = true := by decide +kernel

theorem witness_ScalarResults : ∀ i ∈ [Instr.add 1 2 3, .sub 1 2 3, .addi 1 2 3, .mul 1 2 3, .mulh 1 2 3, .and 1 2 3,
    .or 1 2 3, .xor 1 2 3, .shl 1 2 3, .shr 1 2 3, .sar 1 2 3, .min 1 2 3, .max 1 2 3, .slt 1 2 3, .sltu 1 2 3,
    .sel 1 2 3 4, .li 1 5, .clz 1 2, .popc 1 2, .amov (.toA 1 2), .amov (.fromA 1 2), .amov (.aToA 1 2)],
    base.ready i = true := by decide +kernel

theorem witness_DivisionResults : ∀ i ∈ [Instr.div 1 2 3, .divu 1 2 3, .rem 1 2 3], base.ready i = true := by decide +kernel

theorem witness_BitFieldResults :
    (let s := xsOf 1 63 64;
      s.ready (.bfx 4 1 2 3) = true ∧ s.ready (.bfi 4 1 2 3) = true ∧ (s.x 2).toNat < 64 ∧ (s.x 3).toNat ≤ 64)
    ∧ (let s := xsOf 1 64 65;
      s.ready (.bfx 4 1 2 3) = true ∧ s.ready (.bfi 4 1 2 3) = true ∧ 64 ≤ (s.x 2).toNat ∧ 64 < (s.x 3).toNat)
    ∧ base.cur = .hw 0 0 ∧ base.cx.frame = none ∧ base.frameOk 0 0 = true := by decide +kernel

theorem witness_ScalarFloatResults : ∀ i ∈ [Instr.fadd 1 2 3, .fmul 1 2 3, .ffma 1 2 3 4, .fcmp .lt 1 2 3, .fcvt .f2l 1 2],
    base.ready i = true := by decide +kernel

theorem witness_ScalarFrame : isScalar (.add 1 2 3) = true ∧ base.ready (.add 1 2 3) = true
    ∧ (issueOf (.add 1 2 3) base).isTrap = false ∧ isNext (exec (.add 1 2 3) base) = true := by decide +kernel

/-- A result for X4 that lands at the clock `due`. -/
def inFlight (due : Nat) : Flight := ⟨0, due, 0, .x 4, 7, 0, 0, 0, false⟩

theorem witness_ResultLands :
    (let s := ctxOf fun x => { x with flight := [inFlight 0] };
      (s.ctxAt 0 0).flight = [inFlight 0] ∧ (inFlight 0).due ≤ (s.tile 0).cycle ∧ (inFlight 0).dest = .x 4)
    ∧ (let s := ctxOf fun x => { x with flight := [inFlight 1] };
      ∀ f ∈ (s.ctxAt 0 0).flight, (s.tile 0).cycle < f.due)
    ∧ (let s := tileOf0 fun x => { x with spill := some 0 };
      (s.tile 0).spill = some 0 ∧ 0 ≤ (s.tile 0).cycle) := by decide +kernel

theorem witness_WaitsAndHalts : sup.cx.regs.priv = .S ∧ base.cx.regs.priv = .U ∧ (ctxOf fun x => { x with yielded := true }).cx.yielded = true ∧ base.cx.yielded = false
    ∧ (base.cx.regs.ld ≤ 0 ∧ base.cx.regs.st ≤ 0 ∧ base.cx.regs.cp ≤ 0 ∧ base.cx.regs.tok ≤ 0)
    ∧ ¬ (regsOf fun g => { g with ld := 1 }).cx.regs.ld ≤ 0 := by decide +kernel

theorem witness_Branches : ∀ i ∈ [Instr.br .eq 1 2 8, .call 1 8, .bri 1, .ret 1, .calli 1 2, .banksw 1],
    base.ready i = true := by decide +kernel

theorem witness_BranchFrame : isBranch (.bri 1) = true ∧ base.ready (.bri 1) = true
    ∧ (issueOf (.bri 1) base).isTrap = false ∧ isNext (exec (.bri 1) base) = true := by decide +kernel

/-- Two levels with counts. -/
def counted : State := regsOf fun g => { g with lcs := (g.lcs.set 0 ⟨false, 2, 2, none⟩).set 1 ⟨false, 3, 3, none⟩ }

theorem witness_LoopInstructions : base.ready (.lset 0 1 1) = true
    ∧ (∀ m : LevelNo, (0 : LevelNo) ≤ m → m ≤ (1 : LevelNo) → (counted.cx.regs.lcs[m]).init ≠ 0)
    ∧ (∃ m : LevelNo, (1 : LevelNo) ≤ m ∧ m ≤ (2 : LevelNo) ∧ (counted.cx.regs.lcs[m]).init = 0) := by decide +kernel

/-- A pool with every entry of T0 taken. -/
def poolFull : State := base.onPart 0 fun p => { p with
  conts := (List.range 16).map fun i => (i, Cont.fresh placedTask ⟨i, false, 0, 0, ⟨0, 0, 0⟩, 0, 0⟩) }

theorem witness_TasksEnd :
    (∀ i ∈ [Instr.waitb 1 2 3 ⟨0, 0, 0⟩, .tcont 1 2 3 ⟨0, 0, 0⟩], base.ready i = true ∧ poolFull.ready i = true)
    ∧ base.cur = .hw 0 0 ∧ base.cx.run = .bound ∧ base.freeCont base.curPart base.curTile = some 0
    ∧ poolFull.cur = .hw 0 0 ∧ poolFull.cx.run = .bound
    ∧ poolFull.freeCont poolFull.curPart poolFull.curTile = none := by decide +kernel

/-- A map with `v` at every key from `lo` on, `n` of them. -/
def fullFrom {α : Type} (lo : Nat) : Nat → α → Map α
  | 0, _ => []
  | n + 1, v => (lo, v) :: fullFrom (lo + 1) n v

theorem fullFrom_get {α : Type} (v : α) (n : Nat) : ∀ lo i : Nat, lo ≤ i → i < lo + n →
    Map.get? (fullFrom lo n v) i = some v := by
  induction n with
  | zero => intro lo i h1 h2; omega
  | succ n ih =>
    intro lo i h1 h2
    by_cases h : i = lo
    · simp [fullFrom, Map.get?, h]
    · have h3 : ¬ i < lo := by omega
      simp only [fullFrom, Map.get?, h, h3, if_false]
      exact ih (lo + 1) i (by omega) (by omega)

theorem freeFrom_full {α : Type} (m : Map α) (v : α) (n : Nat) : ∀ lo : Nat,
    (∀ i, lo ≤ i → i < lo + n → Map.get? m i = some v) → Map.freeFrom m lo n = none := by
  induction n with
  | zero => intro lo _; rfl
  | succ n ih =>
    intro lo h
    simp only [Map.freeFrom, h lo (Nat.le_refl lo) (by omega), Option.isNone_some, Bool.false_eq_true, if_false]
    exact ih (lo + 1) fun i h1 h2 => h i (by omega) (by omega)

/-- A task table with every slot taken, and every timer armed. -/
def tableFull : State := base.onPart 0 fun p => { p with
  tasks := fullFrom 0 16384 ⟨0, some .saved⟩, timers := fullFrom 0 4096 ⟨0, 0, 0, 0, 0, 0⟩ }

theorem tableFull_part : tableFull.part 0 = { (base.part 0) with
    tasks := fullFrom 0 16384 ⟨0, some .saved⟩, timers := fullFrom 0 4096 ⟨0, 0, 0, 0, 0, 0⟩ } := by
  simp [tableFull, State.onPart, State.part]

theorem tableFull_slot : tableFull.freeSlot 0 = none := by
  simp only [State.freeSlot, tableFull_part, List.find?_eq_none, List.mem_range]
  intro i hi
  rw [fullFrom_get _ _ 0 i (Nat.zero_le i) (by omega)]
  simp

theorem tableFull_timer : tableFull.freeTimer 0 = none := by
  rw [State.freeTimer, tableFull_part]
  exact freeFrom_full _ _ _ 0 fun i h1 h2 => fullFrom_get _ _ 0 i h1 h2

/-- `base` with TIME at 5 and CP at `cp`. -/
def timed (cp : Nat) : State := { regsOf fun g => { g with cp := cp } with timeOff := 5 }

/-- The state in which TARM's checks are made. -/
def armed (s : State) : State := (s.exposeCur.writeBack s.curTile (some s.curCtx) wholeSpace .part).setNres

theorem witness_TasksSend :
    (∀ i ∈ [Instr.tsig 1 2 3, .tdep 1 2, .tspawn 1 2 3 4, .tarm 4 1 2 3 false],
      (timed 0).ready i = true ∧ (timed 31).ready i = true)
    ∧ (timed 0).cx.regs.cp < 31 ∧ 31 ≤ (timed 31).cx.regs.cp ∧ ((timed 31).freeSlot 0).isSome = true
    ∧ ((timed 0).freeSlot (timed 0).curPart).isSome = true
    ∧ (armed (timed 0)).signalHome 0 8 = .error 20
    ∧ (armed (timed 0)).signalHome 0 0 = .ok (.dram 0x200000) ∧ ((timed 0).x 1).toNat < (timed 0).time
    ∧ (armed base).signalHome 0 0 = .ok (.dram 0x200000) ∧ base.time ≤ (base.x 1).toNat
    ∧ (armed base).freeTimer 0 = some 0 := by decide +kernel

theorem witness_TasksSend_full : tableFull.ready (.tspawn 1 2 3 4) = true ∧ tableFull.cx.regs.cp < 31
    ∧ tableFull.freeSlot 0 = none ∧ tableFull.curPart = 0 ∧ tableFull.ready (.tarm 4 1 2 3 false) = true
    ∧ (armed tableFull).signalHome 0 0 = .ok (.dram 0x200000) ∧ tableFull.time ≤ (tableFull.x 1).toNat
    ∧ (armed tableFull).freeTimer 0 = none :=
  ⟨by decide +kernel, by decide +kernel, tableFull_slot, by decide +kernel, by decide +kernel, by decide +kernel,
    by decide +kernel, tableFull_timer⟩

theorem witness_CsrInstructions :
    (∀ n ∈ [0x000, 0x100], ∀ i ∈ [Instr.csrr 1 n, .csrw 1 2 n, .csrs 1 2 n, .csrc 1 2 n], base.ready i = true)
    ∧ base.cx.regs.priv = .U ∧ base.csrRead 0x0FF = none ∧ (base.csrRead 0x000).isSome = true
    ∧ (sup.csrRead 0x1FF) = none ∧ (sup.csrRead 0x100).isSome = true
    ∧ Ctx.start.flagsNow = 0 ∧ Ctx.start.stkyNow = 0 ∧ csrWritable 0x003 = false := by decide +kernel

/-- As `base`, with no page mapped: no frame can be kept. -/
def unmapped : State := base.onPart 0 fun p => { p with pt := [] }

/-- `sup` with a frame live that holds the accesses `gs`. -/
def framed (gs : List GAcc) : State :=
  sup.onCx fun x => { x with frame := some { sup.newFrame 0 0 0 0 false false with pend := gs } }

/-- A G access of X4 at address 0. -/
def access (st : GStat) : GAcc := ⟨7, ⟨.gld false .d 4 ⟨0, false, 0⟩, false, false⟩, 0, 0, 0, 0, st, 0x20, false, 0, 0, false⟩

theorem witness_TrapEntry : (base.ctxAt 0 0).frame = none ∧ base.frameOk 0 0 = true ∧ base.cur = .hw 0 0
    ∧ unmapped.cx.frame = none ∧ unmapped.frameOk 0 0 = false ∧ (framed []).cx.frame.isSome = true := by decide +kernel

theorem witness_ReturnFromTrap : base.cx.regs.priv = .U ∧ sup.cx.regs.priv = .S ∧ sup.cx.frame = none ∧ sup.cur = .hw 0 0
    ∧ (∀ g ∈ [GStat.outstanding, .faulted, .done],
      (framed [access g]).cx.regs.priv = .S ∧ (framed [access g]).cx.frame.isSome = true)
    ∧ (framed [access .outstanding]).cx.frame.map (·.waits) = some true
    ∧ (framed [access .faulted]).cx.frame.map (fun f => (f.waits, f.unreported)) = some (false, some (access .faulted))
    ∧ (framed [access .done]).cx.frame.map (fun f => (f.waits, f.unreported)) = some (false, none) := by decide +kernel

/-- May a vector instruction go in `base`? -/
def mayGo (i : Instr) (d : VReg) : Bool := base.ready i && base.vecFree && (base.claimV base d).isSome

theorem witness_VectorLanes :
    (∀ i ∈ [Instr.vaddF 1 ⟨2, false⟩ (.v ⟨3, true⟩), .vsubF 1 ⟨2, false⟩ (.x 3), .vmulF 1 ⟨2, false⟩ (.x 3),
      .vfmaF 1 ⟨2, false⟩ (.x 3), .vminF 1 ⟨2, false⟩ (.x 3), .vmaxF 1 ⟨2, false⟩ (.x 3), .vaddI 1 ⟨2, false⟩ (.x 3),
      .vsubI 1 ⟨2, false⟩ (.x 3), .vmulI 1 ⟨2, false⟩ (.x 3), .vminI 1 ⟨2, false⟩ (.x 3), .vmaxI 1 ⟨2, false⟩ (.x 3),
      .vand 1 ⟨2, false⟩ (.x 3), .vor 1 ⟨2, false⟩ (.x 3), .vxor 1 ⟨2, false⟩ (.x 3), .vshl 1 ⟨2, false⟩ (.x 3),
      .vshr 1 ⟨2, false⟩ (.x 3), .vsar 1 ⟨2, false⟩ (.x 3), .vsel 1 ⟨2, false⟩ (.x 3), .vmov 1 (.x 3)], mayGo i 1 = true)
    ∧ (∀ i ∈ [Instr.vabsF 1 ⟨2, false⟩, .vnegF 1 ⟨2, false⟩, .vexp2 1 ⟨2, false⟩, .vlog2 1 ⟨2, false⟩, .vexp 1 ⟨2, false⟩,
      .vlog 1 ⟨2, false⟩, .vrcp 1 ⟨2, false⟩, .vrsq 1 ⟨2, false⟩, .vtanh 1 ⟨2, false⟩, .vsigm 1 ⟨2, false⟩,
      .vcvt .f2h 1 ⟨2, false⟩, .vwidn .rb8 1 ⟨2, false⟩, .vnarw .rb8 1 ⟨2, false⟩], mayGo i 1 = true) := by decide +kernel

theorem witness_VectorMoves :
    (∀ i ∈ [Instr.vrotr 1 ⟨2, false⟩ (.imm 63), .vrotc 1 ⟨2, false⟩ (.imm 15), .vbcr 1 ⟨2, false⟩ (.imm 63),
      .vbcc 1 ⟨2, false⟩ (.imm 15), .vtrn 1 ⟨2, false⟩, .vredr .add 1 ⟨2, false⟩, .vredc .max 1 ⟨2, false⟩], mayGo i 1 = true)
    ∧ base.amount (.imm 63) ≤ 63 ∧ base.amount (.imm 15) ≤ 15
    ∧ (let s := xsOf 64 16 0;
      63 < s.amount (.reg 1) ∧ s.ready (.vbcr 1 ⟨2, false⟩ (.reg 1)) = true
        ∧ 15 < s.amount (.reg 2) ∧ s.ready (.vbcc 1 ⟨2, false⟩ (.reg 2)) = true) := by decide +kernel

/-- `base` with the mask stack `n` deep and the vector slots free from the clock `free`. -/
def deep (n : BitVec 5) (free : Nat) : State :=
  { (regsOf fun g => { g with msd := n }).onTile 0 (fun x => { x with vFree := free }) with slot := .V }

theorem witness_MasksWritten :
    (∀ i ∈ [Instr.vcmpF .lt ⟨2, false⟩ (.v ⟨3, false⟩), .vcmpI .ltu ⟨2, false⟩ (.x 3)], (deep 1 0).ready i = true)
    ∧ (deep 1 0).vecFree = true ∧ (deep 15 0).cx.regs.msd.toNat < 16 ∧ 1 < (deep 2 0).cx.regs.msd.toNat
    ∧ 16 ≤ (deep 16 0).cx.regs.msd.toNat ∧ (deep 1 0).cx.regs.msd.toNat ≤ 1 ∧ (deep 15 1).vecFree = false := by decide +kernel

theorem witness_VectorParts : base.ready (.vtrn 1 ⟨2, false⟩) = true ∧ insWrite (.vtrn 1 ⟨2, false⟩) = some 1
    ∧ (1 : Mask).getLsbD 0 = true := by decide +kernel

theorem witness_VectorResultLands :
    let f : Flight := ⟨0, 0, 0, .v 1 3, 0, 5, 1, 0, false⟩
    let s := ctxOf fun x => { x with flight := [f] };
    (s.ctxAt 0 0).flight = [f] ∧ f.due ≤ (s.tile 0).cycle ∧ f.dest = .v 1 3 := by decide +kernel

theorem witness_VectorFrame : base.cur = .hw 0 0 ∧ isVector (.vtrn 1 ⟨2, false⟩) = true
    ∧ base.ready (.vtrn 1 ⟨2, false⟩) = true ∧ base.cx.hold = [] ∧ (issueOf (.vtrn 1 ⟨2, false⟩) base).isTrap = false
    ∧ isNext (exec (.vtrn 1 ⟨2, false⟩) base) = true := by decide +kernel

/-- A panel of a type, and one entry of MQ. -/
def panel (ty : MType) : Panel := ⟨ty, 0, false⟩

/-- `base` with panels in AF and BF, one entry of MQ, and RT0 changed. -/
def fed (a b : List Panel) (f : RTile → RTile) : State := ctxOf fun x => { x with
  af := a, bf := b, mq := [⟨0, false⟩], rts := x.rts.set 0 (f x.rts[0]) }

theorem witness_ArrayOperations :
    comboClocks 0x70 .rb4 .rb8 = none ∧ ((fed [] [] fun r => { r with xmode := true }).cx.rts[0]).xmode = true
    ∧ comboClocks 0x70 .rb8 .rb4 = some 2 ∧ comboClocks 0x71 .fp16 .fp16 = some 8 ∧ comboClocks 0x72 .rb4 .rb4 = some 1
    ∧ ¬ 1 ≤ base.cx.af.length
    ∧ ¬ (∀ p ∈ (fed [panel .rb4] [panel .rb4] id).cx.af.take 1, p.ty = .rb8)
    ∧ (∀ z ∈ [(1, MType.rb8, MType.rb4), (1, .fp16, .fp16), (2, .rb4, .rb4)],
      let s := fed (List.replicate z.1 (panel z.2.1)) [panel z.2.2] id;
      s.cur = .hw 0 0 ∧ z.1 ≤ s.cx.af.length ∧ 1 ≤ s.cx.bf.length ∧ 1 ≤ s.cx.mq.length
        ∧ (∀ p ∈ s.cx.af.take z.1, p.ty = z.2.1 ∧ p.poison = false) ∧ (∀ p ∈ s.cx.bf.take 1, p.ty = z.2.2 ∧ p.poison = false)
        ∧ (∀ p ∈ s.cx.mq.take 1, p.poison = false) ∧ (s.tile 0).arrayFree ≤ (s.tile 0).cycle
        ∧ (s.cx.rts[0]).busy = false ∧ s.cx.regs.tok < 15)
    ∧ (let s := fed [panel .rb4] [panel .rb4] fun r => { r with busy := true };
      (s.cx.rts[0]).busy = true ∧ chains s.cx.rts[0] 0x70 .rb4 .rb4 true (s.tile 0).arrayOrder = true) := by decide +kernel

theorem witness_TileOperations : base.cur = .hw 0 0 ∧ (base.cx.rts[0]).busy = false ∧ base.cx.regs.tok < 15
    ∧ base.ready (.mput 0 ⟨2, false⟩) = true ∧ base.ready (.mstat 1 0) = true
    ∧ ((fed [] [] fun r => { r with busy := true }).cx.rts[0]).busy = true
    ∧ (fed [] [] fun r => { r with busy := true }).ready (.vrdt 1 0) = true
    ∧ (fed [] [] fun r => { r with busy := true }).ready (.vacc 1 0) = true
    ∧ mayGo (.vrdt 1 0) 1 = true ∧ mayGo (.vacc 1 0) 1 = true
    ∧ (let s := fed [panel .rb4] [panel .rb4] id;
      1 ≤ s.cx.af.length ∧ 1 ≤ s.cx.bf.length ∧ 1 ≤ s.cx.mq.length ∧ (∀ p ∈ s.cx.af.take 1, p.ty = .rb4)
        ∧ (∀ p ∈ s.cx.bf.take 1, p.ty = .rb4) ∧ ¬ ∀ p ∈ s.cx.af.take 1, p.ty = .rb8)
    ∧ ¬ 1 ≤ base.cx.af.length := by decide +kernel

/-- An MZERO of RT0 that lands at the clock `due`. -/
def zeroing (due : Nat) : MatOp := ⟨due, 0, 0, 0, .zero, [], [], []⟩

theorem witness_MatrixResultLands : ∀ n ∈ [0, 1], let s := ctxOf fun x => { x with mops := [zeroing n] };
    (s.ctxAt 0 0).mops = [zeroing n] ∧ (n = 1 ∨ (zeroing n).due ≤ (s.tile 0).cycle)
      ∧ (n = 0 ∨ (s.tile 0).cycle < (zeroing n).due) := by decide +kernel

theorem witness_OrderOfKSteps : [KStep.mk 250 false (some 1), ⟨251, false, none⟩].Perm [⟨251, false, none⟩, ⟨250, false, some 1⟩] :=
  List.Perm.swap _ _ _

/-- `base` with bay 5 of 4,096 bytes at the scratchpad's start, of every context, in a state. -/
def bayOf (sync : Bool) (st : BayState) : State := tileOf0 fun x =>
  x.onBay 5 fun _ => ⟨15, false, false, sync, false, st, 1, 0, none⟩

/-- A location of bay 5 with a displacement. -/
def at5 (n : BitVec 24) : PLoc := ⟨5, 0, false, n⟩

/-- The P accesses, one of each. -/
def pAccesses (l : PLoc) : List Instr := [.pld 1 l, .pldb 1 l 0 0, .plds 1 l 4, .pldx 1 l ⟨2, false⟩, .pldsc false .w 1 l,
  .pst ⟨1, false⟩ l, .pstb ⟨1, false⟩ l 0 0, .psts ⟨1, false⟩ l 4, .pstx ⟨1, false⟩ l ⟨2, false⟩, .pstm ⟨1, false⟩ l,
  .pstsc .w 1 l, .patom .add 1 l 2, .binit 1 false l, .barv 1 l, .bwait 1 l]

theorem witness_BayChecks :
    (∀ i ∈ pAccesses (at5 0), base.ready i = true) ∧ ¬ (base.bay 5).admits base.curCtx = true
    ∧ (∀ y ∈ [true, false], ∀ st ∈ [BayState.ready, .filling], (∀ i ∈ pAccesses (at5 1), (bayOf y st).ready i = true)
      ∧ ((bayOf y st).bay 5).admits (bayOf y st).curCtx = true)
    ∧ ((bayOf true .ready).bay 5).sync = true ∧ ((bayOf false .ready).bay 5).sync = false
    ∧ (bayOf false .ready).pea (at5 1) % 4 ≠ 0 ∧ (bayOf false .ready).pea (at5 0) % 16 = 0
    ∧ ¬ (bayOf false .ready).pea (at5 4) + 0 + 4096 ≤ ((bayOf false .ready).bay 5).len
    ∧ (bayOf false .ready).pea (at5 0) + 0 + 4096 ≤ ((bayOf false .ready).bay 5).len
    ∧ (∀ u ∈ [BayUse.load, .store, .atomic, .barrier, .barrierRead], u.admits .filling = false) := by decide +kernel

/-- Does bay 5 of `bayOf false .ready` answer an access? -/
def answers (u : BayUse) (align : Nat) (rel : Ranges) : Bool :=
  match (bayOf false .ready).bayAccess 5 u 0 align rel with
  | .ok 0 => true
  | _ => false

/-- Whole rows, strided rows, one word: the pieces of the accesses above. -/
def rowPieces : List Ranges := [[(0, 4096)], [(0, 256)], (List.range 16).map fun r => (64 * 4 * r, 256),
  (List.range 1024).map fun e => (4 * (e % 4), 4)]

theorem witness_ScratchpadLoads :
    (∀ i ∈ [Instr.pld 1 (at5 0), .pldb 1 (at5 0) 0 0, .plds 1 (at5 0) 4, .pldx 1 (at5 0) ⟨2, false⟩],
      (bayOf false .ready).ready i = true)
    ∧ (∀ r ∈ rowPieces, answers .load 4 r = true ∧ ((bayOf false .ready).tile 0).spBad r = false)
    ∧ (((bayOf false .ready).readRanges [(0, 4096)]).claimV (bayOf false .ready) 1).isSome = true
    ∧ (((bayOf false .ready).onTile 0 fun x => { x with spPoison := [0] }).tile 0).spBad [(0, 4096)] = true := by
  decide +kernel

theorem witness_ScratchpadStores :
    (∀ i ∈ [Instr.pst ⟨1, false⟩ (at5 0), .pstb ⟨1, false⟩ (at5 0) 15 0, .psts ⟨1, false⟩ (at5 0) 4,
      .pstx ⟨1, false⟩ (at5 0) ⟨2, false⟩, .pstm ⟨1, false⟩ (at5 0), .pstsc .d 1 (at5 0)], (bayOf false .ready).ready i = true)
    ∧ (∀ r ∈ rowPieces, answers .store 4 r = true) ∧ answers .store 8 [(0, 8)] = true ∧ (15 : BitVec 4).toNat + 0 < 16
    ∧ Mem.wf ((bayOf false .ready).tile 0).sp = true ∧ (bayOf false .ready).cur = .hw 0 0
    ∧ (bayOf false .ready).cx.hold = [] := by decide +kernel

theorem witness_ScratchpadScalars : answers .load 8 [(0, 8)] = true ∧ answers .atomic 8 [(0, 8)] = true
    ∧ (∀ i ∈ [Instr.pldsc true .d 1 (at5 0), .patom .swap 1 (at5 0) 2], (bayOf false .ready).ready i = true)
    ∧ ((bayOf false .ready).tile 0).spBad [(0, 8)] = false := by decide +kernel

/-- A SYNC bay whose first barrier is `b`, and X1 at `x`. -/
def barrier (b : Nat) (x : Word) : State :=
  ((bayOf true .ready).onTile 0 fun t => { t with sp := Mem.writeBytes [] 0 (bytesOfNat 16 b) }).onRegs fun g => g.setX 1 x

/-- Does a barrier instruction find its barrier? -/
def finds (s : State) (u : BayUse) : Bool :=
  (match s.bayAccess 5 u 0 16 [(0, 16)] with
    | .ok 0 => true
    | _ => false) && !(s.tile 0).spBad [(0, 16)]

/-- The first barrier once what the context has under way at it is settled. -/
def settled (b : Nat) (x : Word) : BitVec 128 := ((barrier b x).settleRefs 0).bar 0 0

theorem witness_LocalBarriers :
    (∀ b ∈ [0, 2 ^ 22, 2 ^ 36, 2 ^ 92, 2 ^ 23], finds (barrier b 0) .barrier = true ∧ finds (barrier b 0) .barrierRead = true)
    ∧ (∀ i ∈ [Instr.binit 1 false (at5 0), .barv 1 (at5 0), .bwait 1 (at5 0)], (barrier 0 0).ready i = true)
    ∧ (barrier 0 0).x 1 = 0 ∧ ((barrier 0 1).x 1).extractLsb' 0 14 ≠ 0 ∧ ((barrier 0 1).x 1).extractLsb' 15 49 = 0
    ∧ barIn (settled (2 ^ 36) 1) ≠ 0 ∧ barIn (settled (2 ^ 92) 1) = 0 ∧ barOut (settled (2 ^ 92) 1) = 0
    ∧ barWcnt (settled (2 ^ 92) 1) ≠ 0 ∧ barPend (settled 0 0) = 0
    ∧ (∀ b ∈ [2 ^ 22, 2 ^ 23], barSpent (settled b 0) = false ∧ barPend (settled b 0) ≠ 0
      ∧ (((barrier b 0).x 1).extractLsb' 0 4).toNat = barGen (settled b 0))
    ∧ barDone (barSet (settled (2 ^ 22) 0) 22 14 (barPend (settled (2 ^ 22) 0) - 1)) = true
    ∧ barDone (barSet (settled (2 ^ 23) 0) 22 14 (barPend (settled (2 ^ 23) 0) - 1)) = false
    ∧ (let s := (barrier 0 0).onTile 0 fun x => { x with spPoison := [0] };
      (s.tile 0).spBad [(0, 16)] = true ∧ (∀ i ∈ [Instr.binit 1 false (at5 0), .barv 1 (at5 0), .bwait 1 (at5 0)],
        s.ready i = true)) := by decide +kernel

/-- The reference of bay 5's first barrier in T0. -/
def ref5 : Word := 0x2800000

/-- A step of T0's context 0 at the first barrier: its clock, and the state in which it acts. -/
def turnOf (s : State) (k : BarOp) : Nat × State := s.refTurn 0 0 k ref5

/-- The first barrier as an arrival whose clock has come finds it. -/
def found (b : Nat) : BitVec 128 := ((turnOf (barrier b 0) (.arrive 0)).2.readExposes 0 (some 0) 0 16).bar 0 0

theorem witness_ReferenceForms : base.cx.regs.cp < 31
    ∧ (∀ i ∈ [Instr.barvR 1 2, .bwaitR 1 2, .patomR .add 1 2 3], base.ready i = true)
    ∧ (∀ k ∈ [BarOp.arrive 0, .wait 1, .atom .add 1 2],
      (let s := barrier (2 ^ 22) 0; let q := turnOf s k;
        q.1 ≤ s.now ∧ q.2.partOf 0 = some 0 ∧ q.2.barRefBy 0 0 0 ref5 = some (0, 5, 0) ∧ (q.2.tile 0).spBad [(0, 16)] = false
          ∧ (q.2.tile 0).spBad [(0, 8)] = false)
      ∧ (let s := (barrier 0 0).onTile 0 fun x => { x with spPoison := [0] }; let q := turnOf s k;
        q.1 ≤ s.now ∧ q.2.partOf 0 = some 0 ∧ q.2.barRefBy 0 0 0 ref5 = some (0, 5, 0) ∧ (q.2.tile 0).spBad [(0, 8)] = true)
      ∧ (let s := (barrier 0 0).onTile 0 fun x => { x with nextAt := 5 }; s.now < (turnOf s k).1))
    ∧ base.partOf 0 = some 0 ∧ base.barRefBy 0 0 0 0 = none
    ∧ barSpent (found (2 ^ 22)) = false ∧ barGen (found (2 ^ 22)) = 0 ∧ barPend (found (2 ^ 22)) = 1 ∧ barPend (found 0) = 0
    ∧ barDone ((barrier 0 0).bar 0 0) = true ∧ barDone ((barrier (2 ^ 22) 0).bar 0 0) = false := by decide +kernel

/-- `base` in S with bay 5 of `bayOf`, and a command that reads it where `busy`. -/
def bayed (sync : Bool) (st : BayState) (busy : Bool) : State :=
  ((bayOf sync st).onRegs fun g => { g with priv := .S }).onTile 0 fun x =>
    if busy then { x with cmds := [{ base.newCmd base (.pub 1) (Vector.replicate 4 0) none with srcBay := some 5 }] } else x

theorem witness_BayTable :
    (∀ i ∈ [Instr.baycfg 1 4 (.imm 15 false true false 1 1), .baycfg 1 5 (.imm 15 false false false 1 1), .bayst 1 5],
      base.ready i = true ∧ (bayed false .ready false).ready i = true)
    ∧ base.cx.regs.priv = .U ∧ (bayed false .ready false).cx.regs.priv = .S
    ∧ (let s := bayed false .ready false;
      (s.tile 0).cfgCode 5 (s.bayImage (.imm 15 false false false 1 1)) (s.bayBusy 0 5) ≠ 0
        ∧ (s.tile 0).cfgCode 4 (s.bayImage (.imm 15 false true false 1 1)) (s.bayBusy 0 4) = 0)
    ∧ Mem.wf ((bayed false .ready false).tile 0).sp = true
    ∧ ((bayOf false .ready).bay 5).admits 0 = true ∧ (base.bay 5).admits 0 = false ∧ ((bayOf true .ready).bay 5).sync = true
    ∧ (bayed false .ready true).bayBusy 0 5 = true ∧ (bayed false .ready false).bayBusy 0 5 = false
    ∧ (bayed false .empty false).bayBusy 0 5 = false ∧ ((bayed false .empty false).bay 5).st = .empty
    ∧ ((bayed false .filling false).bay 5).st = .filling := by decide +kernel

/-- The G accesses of data form, and those of the synchronising form, one of each. -/
def gAccesses : List Instr := [.gld false .d 1 ⟨0, false, 0⟩, .gldc false .d 1 ⟨0, false, 0⟩, .gst .d 1 ⟨0, false, 0⟩,
  .gstc .d 1 ⟨0, false, 0⟩, .gstv ⟨1, false⟩ ⟨0, false, 0⟩, .gldv 1 ⟨0, false, 0⟩, .gatom .add .part 1 2 ⟨3, 0⟩,
  .gcas .part 1 2 ⟨3, 0⟩, .acq .part 1 ⟨3, 0⟩, .acqs .part 1 2 ⟨3, 0⟩, .rel .st .part 1 ⟨3, 0⟩, .bind 1 2 3 ⟨3, 0⟩,
  .unbind 1 ⟨3, 0⟩, .gfence .part, .ginv 1 ⟨0, false, 0⟩, .gwb 1 ⟨0, false, 0⟩, .gprobe 1 ⟨0, false, 0⟩]

/-- `base` with A0 and X3 at an address. -/
def addressed (w : Word) : State := regsOf fun g => { g with as := g.as.set 0 w, xs := g.xs.set 3 w }

theorem witness_GlobalIssues :
    (∀ i ∈ gAccesses, base.ready i = true)
    ∧ (addressed 0xFFFFFFFFFFF00).ready (.gld false .d 1 ⟨0, false, 0⟩) = true
    ∧ (addressed 0x10000000000000).ready (.gld false .d 1 ⟨0, false, 0⟩) = true
    ∧ (addressed 1).ready (.gld false .d 1 ⟨0, false, 0⟩) = true
    ∧ (addressed 1).ready (.gatom .add .part 1 2 ⟨3, 0⟩) = true
    ∧ (0xFFFFFFFFFFF00 : Word).toNat < 2 ^ 52 ∧ (0xFFFFFFFFFFF00 : Word).toNat % 256 = 0
    ∧ (addressed 0xFFFFFFFFFFF00).a 0 = 0xFFFFFFFFFFF00 ∧ 2 ^ 52 ≤ ((addressed 0x10000000000000).a 0).toNat
    ∧ ((addressed 1).a 0).toNat % 8 ≠ 0 ∧ ((addressed 1).x 3).toNat % 8 ≠ 0
    ∧ base.cx.regs.ld < 63 ∧ base.cx.regs.st < 63 ∧ base.cx.vecOut < 2 ∧ (base.claimV base 1).isSome = true
    ∧ base.cur = .hw 0 0 := by decide +kernel

/-- A G access at an address, outstanding and due. -/
def going (i : Instr) (a : Word) (id : Nat) (st : GStat) : GAcc := ⟨id, ⟨i, false, false⟩, a, 5, 0, 0, st, 0, false, 0, 0, false⟩

/-- `base` with accesses. -/
def flying (gs : List GAcc) (s : State) : State := s.onCx fun x => { x with gaccs := gs }

/-- What kind of end an effect has: a fault, a value, poison, a loss. -/
def endKind : GEnd → Nat
  | .fault _ _ => 0
  | .value _ _ _ => 1
  | .poison => 2
  | .lost => 3

/-- `base` with its page on peer 3, out of reach, in a roster of its own. -/
def peering : State :=
  { (base.onPart 0 fun p => { p with
      pt := [(0x10000000, 0x10001001), (0x10001000, 0x10002001), (0x10002000, 0x317)],
      gslots := p.gslots.set 0 (some ⟨1, 1⟩) }) with
    groups := [⟨1, 0, 0, [⟨0, 0, [(3, none)], []⟩], none, 0, 0⟩], unreachable := 8 }

theorem witness_GlobalCompletion :
    (let g := going (.gst .d 1 ⟨0, false, 0⟩) 0 7 .outstanding;
      let f := going (.gst .d 1 ⟨0, false, 0⟩) 0 6 .faulted;
      let s := flying [g] base;
      (s.ctxAt 0 0).acc? 7 = some g ∧ s.partOf 0 = some 0 ∧ g.due ≤ (s.tile 0).cycle ∧ (s.ctxAt 0 0).mustWait g = false
        ∧ (s.ctxAt 0 0).mustReplay g = false ∧ endKind (s.gEffect 0 0 0 g) = 1
        ∧ s.signalBefore 0 0 g = false ∧ s.flipping 0 g.range = false
        ∧ (s.onPart 0 fun p => { p with jobs := [⟨0, true, none, true, none, []⟩] }).flipping 0 g.range = true
        ∧ ((flying [f, g] base).ctxAt 0 0).mustReplay g = true ∧ ((flying [f, g] base).ctxAt 0 0).mustWait g = false
        ∧ ((flying [{ f with stat := .outstanding }, g] base).ctxAt 0 0).mustWait g = true)
    ∧ (let g := going (.gld false .d 1 ⟨0, false, 0⟩) 0x200000 7 .outstanding;
      endKind ((flying [g] base).gEffect 0 0 0 g) = 0 ∧ (flying [g] base).signalBefore 0 0 g = false
        ∧ (flying [g] base).flipping 0 g.range = false)
    ∧ (let g := going (.gatom .add .part 1 2 ⟨3, 0⟩) 0 7 .outstanding;
      { flying [g] base with agenda := [⟨0, orderKey 0 0, .signalStep (.tsig 0 0 0) 0 0 0⟩] }.signalBefore 0 0 g = true)
    ∧ (let g := going (.gld false .d 1 ⟨0, false, 0⟩) 0 7 .outstanding;
      let l : Line := ⟨0, Vector.replicate 4 0, .peer 3 0, 1⟩;
      endKind ((flying [g] (peering.setLine 0 (lineKey 0 0) l)).gEffect 0 0 0 g) = 2
        ∧ endKind ((flying [g] peering).gEffect 0 0 0 g) = 3 ∧ (flying [g] peering).atPeer 0 g = true)
    ∧ (let s := base; s.lost (.dram 0x200000) = false ∧ s.homePoison (.dram 0x200000) 8 = false
      ∧ s.translate 0 0 true = .ok (.dram 0x200000) ∧ s.translate 0 0x200000 true = .error .storeFault
      ∧ (s.makeSync 0 0 (.dram 0x200000) (some 0)).readQ (.dram 0x200000) = (going (.gcas .part 1 2 ⟨3, 0⟩) 0 7 .outstanding).arg
      ∧ (s.makeSync 0 0 (.dram 0x200000) (some 0)).readQ (.dram 0x200000) ≠ 1) := by decide +kernel

/-! ### Engine commands -/

/-- A command of `base` with its operands. -/
def cmdOf (i : Instr) (a b c d : Word) : Cmd := base.newCmd base i (four a b c d) none

/-- A state of T0 with one command, and bay 5 as given. -/
def commanded (b : Bay) (k : Cmd) : State := tileOf0 fun x => { x.onBay 5 (fun _ => b) with cmds := [k] }

/-- Bay 5 in a state. -/
def bay5 (st : BayState) : Bay := ⟨15, false, false, false, false, st, 1, 0, none⟩

theorem witness_CommandsQueue_ready : (∀ i ∈ [Instr.cpy 1 2 3 4 ctl, .cpyi 1 2 3 ctl 8, .cpys 1 2 3 4 ctl, .cpyb 1 2 3 4 ctl,
    .pub 1, .evpost 1 2, .mcmt 0, .mabt 0, .tilewk 1 2, .tileoff 1, .mwr 1 2 3 none false, .snget 1 2 3 4 none none true],
    base.ready i = true)
    ∧ (∀ i ∈ [Instr.cgrpJoin 1 2 0, .cgrpLeave 1 0,
      .collAllreduce 1 2 3 ⟨0, none, .f32, false, true, false, false⟩ 1,
      .collRedscat 1 2 3 ⟨0, none, .f32, false, true, false, false⟩ 1,
      .collAllgath 1 2 3 ⟨0, none, .f32, false, true, false, false⟩ 1,
      .collBcast 1 2 3 4 ⟨0, none, .f32, false, true, false, false⟩ 1, .cfeed 1 2 3 .mq .global],
      base.ready i = true ∧ sup.ready i = true) := by decide +kernel

theorem witness_CommandsQueue_fit : base.srcFit .global 0xFFFFFFFFFFFFF ∧ base.srcFit .mram 0 ∧ base.dstFit .global 0
    ∧ base.dstFit .bank 0xFFFC ∧ (commanded (bay5 .ready) (cmdOf (.pub 1) 0 0 0 0)).srcFit .bay ref5
    ∧ (commanded (bay5 .empty) (cmdOf (.pub 1) 0 0 0 0)).dstFit .bay ref5
    ∧ (commanded { bay5 .ready with shadow := true, size := 2 } (cmdOf (.pub 1) 0 0 0 0)).dstFit .bay ref5 := by
  refine ⟨?_, ?_, ?_, ?_, ⟨5, 0, ?_⟩, ⟨5, 0, ?_⟩, ⟨5, 0, ?_⟩⟩
  · show _ < _; decide
  · show _ < _; decide
  · show _ < _; decide
  · show _ ∧ _; decide
  · decide +kernel
  · decide +kernel
  · decide +kernel

theorem witness_CommandsQueue : base.cur = .hw 0 0 ∧ base.cx.regs.cp < 31 ∧ 31 ≤ (timed 31).cx.regs.cp
    ∧ 1 ≤ ((0x100 : Word).extractLsb' 8 8).toNat ∧ ((0x100 : Word).extractLsb' 8 8).toNat ≤ 40
    ∧ (tileRange 0x100).contains (0 : TileNo).val = true ∧ (tileRange 0x101).contains (0 : TileNo).val = false
    ∧ (bayLoc 0 ref5).isSome = true ∧ (0xFF00 : Word).toNat < 2 ^ 16 ∧ (0 : Word).toNat + (0 : Word).toNat ≤ mramProg
    ∧ (0x100000000 : Word).toNat ≤ 2 ^ 32 ∧ base.cx.regs.priv = .U ∧ sup.cx.regs.priv = .S
    ∧ malformedRef ref5 = false ∧ (0xFFFF : Word).toNat ≤ 65535
    ∧ base.x 2 = 0 ∧ base.isRoot ⟨0, none, .f32, false, true, false, false⟩ (base.x 4) = false := by decide +kernel

theorem witness_CommandsQueue_settled : base.settled :=
  State.settled_of_idle (t := 0) (c := 0) (by decide +kernel) (by decide +kernel) (by decide +kernel)

/-- A tree of granule 16 with a node in slot 3 held `n` times. -/
def lantern (n : Nat) : State := { base with lantern := {
  nodes := [(3, ⟨0, false, false, 3, 0, n, 0, 0, 0, 0, 0, 0⟩)], ngen := [], trees := [(0, ⟨0, 16, 1, 0, 3, 0, 1, 0, 0, 0, 0⟩)] } }

theorem witness_CommandsAnswer : (∀ i ∈ [Instr.cstat 1 0, .mwear 1 2 true, .cabrt .all, .snput 1 2 3 4 5, .snrel 1, .snhold 1,
      .snstat 1 2 .hits, .snfind 1 2 3 4 true, .sncfgCreate 1 2 0 false 1, .sncfgDestroy 1 2, .sncfgFlush 1 2],
      base.ready i = true ∧ sup.ready i = true)
    ∧ base.cur = .hw 0 0 ∧ base.cx.regs.cp < 31 ∧ 31 ≤ (timed 31).cx.regs.cp ∧ base.cx.regs.priv = .U
    ∧ sup.cx.regs.priv = .S
    ∧ (let s := commanded (bay5 .ready) (cmdOf (.cpyi 1 2 3 ctl 8) 0 0 0 0);
      ∃ k ∈ (s.tile 0).cmds, k.ctx = 0 ∧ k.tid = s.tid ∧ AbortSel.names .all k = true)
    ∧ (let s := commanded (bay5 .ready) { cmdOf (.cpyi 1 2 3 ctl 8) 0 0 0 0 with ctx := 1 };
      ∃ k ∈ (s.tile 0).cmds, ∀ j ∈ (s.tile 0).cmds, j.id = k.id → ¬ j.ctx = 0)
    ∧ (let s := (commanded (bay5 .ready) (cmdOf (.pub 1) 0 0 0 0)).onRegs fun g => { g with xs := g.xs.set 3 ref5 };
      (s.x 4).toNat < 2 ^ 24 ∧ ((s.x 3).extractLsb' 0 23).toNat + 4 * (s.x 4).toNat ≤ (s.bay 5).len
        ∧ (bayLoc s.curTile (s.x 3)) = some (5, 0) ∧ (s.bay 5).admits s.curCtx = true ∧ (s.bay 5).st = .ready
        ∧ anyPoison (s.tile 0).spPoison ((s.bay 5).start_ false) (4 * s.tokensRead s.curPart (s.x 1) (s.x 4).toNat) = false)
    ∧ (let s := (lantern 0).onTile 0 fun x => { x.onBay 5 (fun _ => bay5 .ready) with spPoison := [0] };
      s.tokensRead 0 (nodeHandle 0 3 (s.lantern.gen 3)) 16 = 16 ∧ s.ready (.snfind 1 2 3 4 true) = true
        ∧ anyPoison (s.tile 0).spPoison ((s.bay 5).start_ false) (4 * 16) = true) := by decide +kernel

/-- Did a read go well? -/
def read? {α β : Type} : Except α β → Bool
  | .ok _ => true
  | _ => false

/-- A copy of 8 bytes from address 0 to bay 5. -/
def copy8 : Cmd := { cmdOf (.cpyi 1 2 3 ctl 8) 0 0 ref5 0 with stat := .issued, dstBay := some 5 }

/-- A feed of one panel of MQ from address 0. -/
def feed1 : Cmd := { cmdOf (.cfeed 1 2 3 .mq .global) 1 0 256 0 with stat := .issued }

theorem witness_CopiesRun :
    (let k := { copy8 with doom := some 9 }; let s := commanded (bay5 .empty) k;
      s.partOf 0 = some 0 ∧ (s.tile 0).cmd? 0 = some k ∧ k.stat = .issued ∧ k.doom = some 9
        ∧ (s.ctxAt 0 0).runs k.tid = true ∧ (s.ctxAt 0 0).dq.length < 32)
    ∧ (let s := commanded (bay5 .empty) copy8;
      (s.tile 0).cmd? 0 = some copy8 ∧ copy8.ins.ins = .cpyi 1 2 3 ctl 8 ∧ copy8.doom = none ∧ copy8.tiles = []
        ∧ ctl.bin = false ∧ ctl.bout = false ∧ ctl.dsp ≠ .bank ∧ (s.tile 0).engineFree copy8 = true ∧ s.anyFlip 0 = false
        ∧ (s.tile 0).mramWait .global copy8.ops[1] [0] 8 = false
        ∧ read? ((s.exposeSource 0 copy8).srcRead 0 copy8 .global copy8.ops[1] 0 8) = true
        ∧ ((s.exposeSource 0 copy8).tile 0).place 0 .bay copy8.ops[2] 0 8 = some 0)
    ∧ (let k := { copy8 with stat := .started, srcBay := some 5 }; let s := commanded (bay5 .draining) k;
      k.ctl? = some ctl ∧ k.stat = .started ∧ k.srcBay = some 5 ∧ ((s.tile 0).bay 5).st = .draining)
    ∧ (let buf := [(0, [1, 2, 3, 4, 5, 6, 7, 8])];
      let k := { copy8 with stat := .read, slot := some 1, buf := buf, sums := sumsOf buf };
      let s := commanded (bay5 .filling) k;
      (s.tile 0).cmd? 0 = some k ∧ k.ctl? = some ctl ∧ k.poison = false ∧ k.crcBad = false ∧ k.deferred = none ∧ k.tiles = []
        ∧ k.bar = none ∧ k.corrupt = false ∧ s.asleep 0 = false ∧ s.spTick 0 ≤ s.now ∧ k.dest = some (.bay, ref5) ∧ k.dstBay = some 5 ∧ Mem.wf (s.tile 0).sp = true
        ∧ (s.ctxAt 0 0).runs k.tid = true)
    ∧ (let s := commanded (bay5 .ready) feed1; let x := s.ctxAt 0 0;
      (s.tile 0).cmd? 0 = some feed1 ∧ feed1.ins.ins = .cfeed 1 2 3 .mq .global ∧ (s.tile 0).feedBehind feed1 .mq = false
        ∧ x.room .mq = true ∧ x.run ≠ .winding ∧ x.storeBefore feed1.id = false ∧ s.anyFlip 0 = false ∧ (s.tile 0).mramWait .global feed1.ops[1] [0] (Feed.bytes .mq) = false
        ∧ read? ((s.exposeSource 0 feed1).srcRead 0 feed1 .global feed1.ops[1] 0 (Feed.bytes .mq)) = true
        ∧ feed1.ops[0].toNat ≤ feed1.prog + 1) := by decide +kernel

/-- A transaction of context 0 with one unit. -/
def journal1 : Journal := ⟨0, [(64, List.replicate 64 1)], 64, 0, none⟩

/-- A state with a command and a transaction. -/
def journalled (k : Cmd) (j : Journal) : State := tileOf0 fun x => { x with cmds := [k], journal := some j }

theorem witness_JournalRuns :
    (let buf := [(0, List.replicate 64 2)];
      let k := { cmdOf (.mwr 1 2 3 none false) 0 0 0 64 with stat := .read, buf := buf, sums := sumsOf buf };
      let s := journalled k journal1;
      s.partOf 0 = some 0 ∧ (s.tile 0).cmd? 0 = some k ∧ k.ins.ins = .mwr 1 2 3 none false ∧ journal1.owner = k.ctx ∧ k.stat = .read ∧ k.poison = false ∧ k.corrupt = false
        ∧ { k with buf := [], sums := [] }.corrupt = false ∧ (k.buf.map fun q => q.2.length).sum ≠ 0
        ∧ (s.tile 0).journal = some journal1 ∧ journal1.fail = 0 ∧ { journal1 with fail := 4 }.fail ≠ 0
        ∧ journal1.bytes + (k.buf.map fun q => q.2.length).sum ≤ 4194304
        ∧ 4194304 < { journal1 with bytes := 4194241 }.bytes + (k.buf.map fun q => q.2.length).sum)
    ∧ (∀ i ∈ [Instr.mcmt 0, .mabt 0], let k := { cmdOf i 0 0 0 0 with stat := .issued }; let s := journalled k journal1;
      (s.tile 0).cmd? 0 = some k ∧ k.ins.ins = i ∧ k.doom = none ∧ (s.tile 0).journal = some journal1
        ∧ journal1.committing = none ∧ journal1.owner = k.ctx ∧ (s.tile 0).journalBehind k = false)
    ∧ (let k := { cmdOf (.mcmt 0) 0 0 0 0 with stat := .started, slot := some 0 };
      let s := journalled k { journal1 with committing := some 0 };
      (s.tile 0).cmd? 0 = some k ∧ (s.tile 0).journal = some { journal1 with committing := some 0 }
        ∧ Mem.wf (s.tile 0).mram = true ∧ (s.ctxAt 0 0).runs k.tid = true) := by decide +kernel

theorem witness_LanternSteps : (lantern 0).partOf 0 = some 0 ∧ base.liveNode 0 3 = none
    ∧ (∀ n ∈ [0, 1, 65534, 65535], ((lantern n).liveNode 0 3).map (fun r => (r.1, r.2.1.holds, r.2.2.g)) = some (3, n, 16))
    ∧ ([] : List (BitVec 32)).length < 16 ∧ (base.ctxAt 0 0).task.map (·.tid) = some 0 := by decide +kernel

/-- A group of two members of which this device is the first, and a COLL of it with its offer. -/
def roster2 : Roster := ⟨1, 0, [(1, none), (2, none)], []⟩
def group2 : Group := ⟨1, 0, 0, [roster2], none, 1, 0⟩
def offer1 : CollOffer := ⟨.allreduce, .f32, 1, 0⟩
def collCtl : CollCtl := ⟨0, none, .f32, false, false, true, false⟩
def collCmd : Cmd := { cmdOf (.collAllreduce 1 2 3 collCtl 1) 0 0 ref5 0 with
  stat := .read, dstBay := some 5, buf := [(0, [0, 0, 0, 0])], sums := sumsOf [(0, [0, 0, 0, 0])] }

/-- A state with that COLL, matched or not, and the data it has. -/
def coll (matched : Bool) (ins : List (Nat × List (BitVec 32))) (k : Cmd) : State :=
  { commanded (bay5 .filling) k with groups := [group2], colls := [⟨0, 1, 0, 0, 0, offer1, matched, ins, []⟩] }

theorem witness_CollectivesRun :
    (∀ m ∈ [true, false], let s := coll m [] collCmd;
      s.coll? 0 1 0 = some ⟨0, 1, 0, 0, 0, offer1, m, [], []⟩ ∧ s.group? 0 1 = some group2 ∧ group2.rosterAt 0 = some roster2
        ∧ (s.tile 0).cmd? 0 = some collCmd ∧ collCmd.coll = some (.allreduce, collCtl, 1))
    ∧ (let s := coll false [] { collCmd with stat := .issued };
      s.collTurn ⟨0, 1, 0, 0, 0, offer1, false, [], []⟩ = true ∧ s.anyFlip 0 = false ∧ [(1, offer1)].map (·.1) = (List.range 2).filter (· != 0)
        ∧ group2.counter + CollOffer.mostMsgs offer1 2 < 2 ^ 64
        ∧ CollOffer.agrees offer1 offer1 = true ∧ ¬ CollOffer.agrees offer1 ⟨.allreduce, .bf16, 1, 0⟩ = true
        ∧ s.memberLost roster2 = false ∧ { s with unreachable := 4 }.memberLost roster2 = true
        ∧ read? ((s.exposeSource 0 collCmd).srcRead 0 collCmd .global collCmd.ops[1] 0 4) = true
        ∧ ((s.exposeSource 0 collCmd).tile 0).place 0 .bay collCmd.ops[2] 0 4 = some 0) := by decide +kernel

theorem witness_CollectivesRun_data : 1 ≠ group2.rank ∧ [(0 : BitVec 32)].length = offer1.n
    ∧ (let s := coll true [(1, [7])] collCmd;
      s.collReady ⟨0, 1, 0, 0, 0, offer1, true, [(1, [7])], []⟩ roster2 0 = true ∧ collCmd.poison = false ∧ collCmd.crcBad = false
        ∧ collCmd.corrupt = false ∧ s.anyFlip 0 = false ∧ s.spTick 0 ≤ s.now
        ∧ collCmd.bar = none ∧ collCmd.tiles = [] ∧ collCtl.dbay = true ∧ collCmd.dstBay = some 5
        ∧ collCmd.buf = [(0, [0, 0, 0, 0])] ∧ Mem.wf (s.tile 0).sp = true) := by decide +kernel

theorem witness_CollectivesRun_sums : CollOffer.reduces offer1 = true ∧ Roster.hearsPart roster2 0 1 .total = true
    ∧ [(0 : BitVec 32)].length = CollOffer.srcCount offer1 2 0 ∧ Roster.forms roster2 0 = false
    ∧ Coll.part? ⟨0, 1, 0, 0, 0, offer1, true, [], []⟩ .total = none ∧ Roster.forms roster2 1 = true
    ∧ Roster.segIndex roster2 1 ≠ 0 ∧ CollSeg.many (Roster.segOf roster2 1) = false
    ∧ Coll.total ⟨0, 1, 0, 0, 0, offer1, true, [], [(.total, [7])]⟩ roster2 0 [0] = some [7] := by decide +kernel

theorem witness_CollectivesRun_rosters :
    let r2 : Roster := ⟨2, 1, [(1, none), (2, none)], []⟩; let s := coll true [] collCmd;
      group2.rosters = roster2 :: group2.rosters.tail ∧ r2.epoch = roster2.epoch + 1
        ∧ (∀ e ∈ s.colls, e.part = 0 → e.group = 1 → e.matched = true → e.seq < r2.fence) ∧ r2.members ≠ []
        ∧ r2.members.length ≤ 64 ∧ r2.switches.length ≤ 64 ∧ group2.rank = 0 ∧ { group2 with rank := 1 }.rank ≠ 0
        ∧ (1 : Word).extractLsb' 0 16 = (1 : BitVec 16) := by decide +kernel

/-! ### Tasks, queues and launches -/

/-- A descriptor of a kernel of one bundle for T0, and device memory with it at address 0x1000. -/
def descBytes : List Byte := bytesOfNat 8 0 ++ bytesOfNat 4 4 ++ bytesOfNat 8 0 ++ [1] ++ bytesOfNat 11 0 ++ [1]
def withDesc (s : State) : State := { s with dram := Mem.writeBytes s.dram 0x201000 descBytes }
def desc1 : Desc := ⟨0, 4, 0, false, false, 0, 0, 1, [], 0, 1, [], []⟩

/-- A spawned task with its counter, and a partition with it in slot 0. -/
def spawn (n : Nat) (d : Option Desc) (at_ : Option Nat) : Spawn := ⟨0x1000, 0, d, Vector.replicate 8 0, n, none, at_, false, 0⟩
def spawned (w : Spawn) : State := withDesc (base.onPart 0 fun p => { p with tasks := [(0, ⟨0, some (.spawn w)⟩)] })

/-- A continuation of T0, ready where `r` says so, and a partition with it. -/
def cont (r : Option (Nat × Nat)) : Cont := { Cont.fresh placedTask ⟨0, false, 0, 0, ⟨0, 0, 0⟩, 3, 0⟩ with ready := r }
def waiting (r : Option (Nat × Nat)) (s : State) : State := s.onPart 0 fun p => { p with conts := [(0, cont r)] }

theorem reset_mems : MemsWf base := by
  unfold MemsWf
  decide +kernel

theorem witness_TaskSteps_table : (base.ctxAt 0 0).runs 0 = true
    ∧ Map.get? ((spawned (spawn 2 none none)).part 0).tasks 0 = some ⟨0, some (.spawn (spawn 2 none none))⟩
    ∧ (spawn 2 none none).running = false ∧ (spawn 2 none none).readyAt = none ∧ (spawn 2 none none).desc = none
    ∧ 2 ≤ (spawn 2 none none).counter ∧ (spawn 2 none none).counter < 3
    ∧ (let s := ((spawned (spawn 2 none none)).handOff 0 0 .part).dropCp 0 0 0;
      read? (s.readDesc 0 0x1000) = true ∧ (s.readWords 0 0).isSome = true ∧ read? (s.readDesc 0 0x200000) = false) := by
  decide +kernel

theorem witness_TaskSteps_signals : base.signalHome 0 0 = .ok (.dram 0x200000) ∧ base.lost (.dram 0x200000) = false
    ∧ (waiting none base).cont? 0 0 = some (cont none) ∧ (waiting none base).signalHome 0 8 = .error 20
    ∧ (waiting none base).signalHome 0 0 = .ok (.dram 0x200000)
    ∧ (0 : Word).toNat ≤ (((waiting none base).makeSync 0 0 (.dram 0x200000) none).readQ (.dram 0x200000)).toNat
    ∧ (waiting none base).barRefBy 0 0 0 0 = none
    ∧ (let s := waiting none (barrier (2 ^ 22) 0); let q := s.barTurn 0 0 (orderKey 0 0);
      s.barRefBy 0 0 0 ref5 = some (0, 5, 0) ∧ q.1 ≤ s.now
        ∧ barGen ((q.2.readExposes 0 (some 0) 0 16).bar 0 0) ≠ 1 % 16) := by decide +kernel

theorem witness_TaskSteps_ends :
    (let s := base.onPart 0 fun p => { p with timers := [(0, ⟨0, 0, 0, 0, 0, 0⟩)] };
      Map.get? (s.part 0).timers 0 = some ⟨0, 0, 0, 0, 0, 0⟩ ∧ 0 ≤ s.time
        ∧ (s.ctxAt 0 0).storeBefore 0 = false)
    ∧ base.woundDown 0 0 = false
    ∧ (let s := ctxOf fun x => { x with run := .winding, endWait := some (some ⟨0, false, 0, 0, ⟨0, 0, 0⟩, 0, 0⟩) };
      s.woundDown 0 0 = true ∧ (s.ctxAt 0 0).endWait.isSome = true ∧ s.partOf 0 = some 0) := by decide +kernel

/-- T0's context 0 free or otherwise, without a task. -/
def idle (s : State) : State := s.onCx fun x => { x with run := .free, task := none }

/-- As `base`, with a D bundle in front of the context: a header and a NOP in slot K. -/
def atD (f : Ctx → Ctx) : State :=
  (base.onPart 0 fun p => { p with saven := 1 }).onTile 0 fun x =>
    { x with
      banks := x.banks.set 0 { x.banks[0] with
        mem := Mem.writeBytes [] 0 ((encodeHeader 7 true 0 [.K] :: encode ⟨.nop, false, false⟩).flatMap bytesOfWord) },
      ctxs := (x.ctxs.set 1 { x.ctxs[1] with run := .bound }).set 0 (f x.ctxs[0]) }

theorem witness_Scheduling_entry :
    (let s := waiting (some (0, 0)) (idle base);
      (s.ctxAt 0 0).run = .free ∧ (s.tile 0).power = .run ∧ (s.tile 0).quarantined = false ∧ (s.part 0).paused = false
        ∧ (s.part 0).live = true ∧ s.pkg.state = .run ∧ (s.choose 0 0 0).map (·.kind) = some (.cont 0)
        ∧ s.cont? 0 0 = some (cont (some (0, 0))))
    ∧ (let w := spawn 0 (some desc1) (some 0); let s := idle (spawned w);
      (s.choose 0 0 0).map (·.kind) = some (.spawn 0)
        ∧ Map.get? (s.part 0).tasks 0 = some ⟨0, some (.spawn w)⟩ ∧ w.desc = some desc1)
    ∧ (let s := ctxOf fun x => { x with run := .selected };
      (s.ctxAt 0 0).run = .selected ∧ (s.ctxAt 0 0).task = some placedTask ∧ s.comesBack 0 (s.ctxAt 0 0) placedTask = true
        ∧ (s.part 0).saves = [] ∧ (s.tile 0).bankLost (s.ctxAt 0 0).bank = false
        ∧ ((s.tile 0).banks[(s.ctxAt 0 0).bank]).loading = false)
    ∧ (let s := (ctxOf fun x => { x with run := .loading }).onTile 0 fun x =>
        { x with banks := x.banks.set 0 { x.banks[0] with loading := true } };
      ((s.tile 0).banks[(0 : Fin 2)]).loading = true ∧ ((s.tile 0).banks[(0 : Fin 2)]).image = some (0, 0)
        ∧ (s.hubRead 0 0 0x8000).isSome = true ∧ s.hubPoison 0 0 0x8000 = false) := by decide +kernel

theorem witness_Scheduling_preemption :
    (let s := atD fun x => { x with preempt := true }; (s.ctxAt 0 0).run = .bound ∧ s.preempts 0 0 = true)
    ∧ (let s := atD fun x => { x with run := .saving };
      (s.ctxAt 0 0).run = .saving ∧ (s.ctxAt 0 0).task = some placedTask ∧ (s.ctxAt 0 0).segs = [] ∧ (s.ctxAt 0 0).hold = []
        ∧ s.saveRoom 0 placedTask = some (0, 0))
    ∧ (let v : Saved := ⟨0, Ctx.start, [], placedTask, 0, 0, true⟩;
      let s := (ctxOf fun x => { x with run := .restoring }).onPart 0 fun p => { p with saves := [(0, v)] };
      (s.ctxAt 0 0).run = .restoring ∧ (s.ctxAt 0 0).task = some placedTask ∧ s.pkg.state = .run
        ∧ (s.part 0).saves.find? (fun e => e.2.taken && e.2.task.tid == placedTask.tid) = some (0, v))
    ∧ (let l : Launch := ⟨desc1, 0x1000, Vector.replicate 8 0, 1, .queue 1 0, 0, [], true, 0⟩;
      let s := (idle base).onPart 0 fun p => { p with tasks := [(0, ⟨0, some (.launch l)⟩)] };
      Map.get? (s.part 0).tasks 0 = some ⟨0, some (.launch l)⟩ ∧ l.waiting = false ∧ s.ownerBusy 0 (handleOf 0 0) = false
        ∧ l.origin = .queue 1 0) := by decide +kernel

/-- A partition whose queue 0, in a ring in host memory, has one entry of 128 bytes. -/
def queued (bs : List Byte) : State :=
  withDesc { (base.onFunc 1 fun x => { x with
      part := some 0, queues := x.queues.set 0 { Queue.start with state := .running, host := true, tail := 1 } }) with
    pkg := { base.pkg with gondola := .valid }, host := Mem.writeBytes [] 0 bs }

/-- An entry: its opcode, its flags, its two addresses. -/
def entry (op flags a b : Nat) : List Byte :=
  bytesOfNat 1 op ++ bytesOfNat 1 flags ++ bytesOfNat 6 0 ++ bytesOfNat 8 a ++ bytesOfNat 8 b

/-- The kinds of fronts: idle, an error, a command with its opcode. -/
def frontKind : Front → Nat
  | .idle => 100
  | .bad n _ => 50 + n
  | .cmd k => k.op

theorem witness_QueuesServe_heads :
    (let s := queued []; (s.func 1).part = some 0 ∧ (s.rereadAll 1 0).pickQueue 1 0 = some 0
      ∧ frontKind ((s.rereadAll 1 0).frontOf 1 0) = 0)
    ∧ (let s := queued (entry 9 0 0 0); (s.rereadAll 1 0).pickQueue 1 0 = some 0
      ∧ frontKind ((s.rereadAll 1 0).frontOf 1 0) = 51)
    ∧ (let s := queued (entry 1 0 0x1000 0); ((s.serving 1 0 1).map fun r => (r.1, r.2.pro)) = some (0, false)
      ∧ read? ((s.served 1 0).readDesc 0 0x1000) = true ∧ s.freeSlot 0 = some 0)
    ∧ (let s := queued (entry 1 1 0x1000 0x100); ((s.serving 1 0 1).map fun r => (r.1, r.2.pro, r.2.addr2)) =
        some (0, true, 0x100) ∧ s.prologue = none ∧ ((s.served 1 0).hubRead 0 0x100 1024).isSome = true)
    ∧ (let s := queued (entry 2 0 0 0); ((s.serving 1 0 2).map (·.1)) = some 0 ∧ s.canWrite 0 0 8 = true) := by decide +kernel

theorem witness_QueuesServe_signals :
    (let s := queued (entry 3 0 0 0); ((s.serving 1 0 3).map fun r => (r.1, (s.waitsRead 0 r.2.addr1).isSome)) = some (0, true))
    ∧ (let s := queued (entry 3 0 0 5); frontKind (s.frontOf 1 0) = 3 ∧ (match s.frontOf 1 0 with
        | .cmd k => s.waitsMet 0 k
        | _ => true) = false)
    ∧ (let s := queued (entry 4 0 0 1); ((s.serving 1 0 4).map fun r => (r.1, r.2.addr1, r.2.addr2)) = some (0, 0, 1)
      ∧ read? ((s.served 1 0).signalAt 0 0 1) = true)
    ∧ (let s := queued []; s.hears 1 = true ∧ ¬ (s.pkg.gondola = .recovery) ∧ (s.func 1).isLocked = false
      ∧ { s with pkg := { s.pkg with state := .boot } }.hears 1 = false) := by decide +kernel

/-- A prologue of the command at the head of queue 0. -/
def prologue1 (ended : Bool) : Prologue :=
  ⟨1, .queue 1 0, 0, Ctx.start, 0, [], 1024, 0x1000, Vector.replicate 8 0, 0, 0, 63, [], ended, false⟩

theorem witness_QueuesServe_prologue :
    (let s := { queued (entry 1 1 0x1000 0x100) with prologue := some (prologue1 true) };
      s.prologue = some (prologue1 true) ∧ (prologue1 true).ended = true ∧ (prologue1 true).fault = false
        ∧ (s.queue 1 0).state = .running)
    ∧ (let s := { queued (entry 1 1 0x1000 0x100) with prologue := some (prologue1 false) };
      (prologue1 false).emits < 64 ∧ (prologue1 false).ctx.regs.x 9 = 0 ∧ read? (s.readDesc 0 0x1000) = true
        ∧ desc1.total < 2 ^ 32 ∧ s.freeSlot 0 = some 0)
    ∧ (let s := (queued []).onPart 0 fun p => { p with ttab := 0x2000 };
      let r := { s with dram := Mem.writeBytes s.dram 0x202058 [0x41] };
      r.gondolaServes (r.funcOf 0) 0 = true ∧ ((r.ttAccept 0 (r.part 0).ttOpen).ttDue 0 1).isSome = true) := by decide +kernel

/-! ### Power, links, the host -/

/-- T0 with no task, in a power state. -/
def tileIn (p : TilePower) : State := (idle base).onTile 0 fun x => { x with power := p, idleClocks := 64 }

/-- Cluster 0 at a level, with a change under way or none. -/
def leveled (l : Fin 8) (c : Option (Fin 8)) : State :=
  base.onCluster 0 fun k => { k with level := l, change := c, dl := 7, bl := 7 }

theorem witness_PowerSteps : base.ready (.pwrq 1 2) = true
    ∧ ((tileIn .run).tile 0).power = .run ∧ ((tileIn .run).tile 0).quiet = true ∧ 64 ≤ ((tileIn .run).tile 0).idleClocks
    ∧ (let s := { tileIn .idle with now := nanos 20000 };
      (s.tile 0).power = .idle ∧ (s.tile 0).idleSince + s.offTicks 0 ≤ s.now ∧ s.mayOff 0 = true)
    ∧ (let s := { tileIn (.goingOff false) with now := nanos 600 };
      (s.tile 0).power = .goingOff false ∧ (s.tile 0).idleSince + nanos 600 ≤ s.now)
    ∧ ((tileIn .waking).tile 0).power = .waking ∧ (base.tile 0).holdUntil ≤ base.now
    ∧ ((leveled 3 (some 4)).clusters[(0 : ClusterNo)]).change = some 4
    ∧ ((leveled 3 none).clusters[(0 : ClusterNo)]).level ≠ 0 ∧ ((leveled 3 none).clusters[(0 : ClusterNo)]).change = none
    ∧ { base with pkg := { base.pkg with throttled := true } }.pkg.throttled = true ∧ base.pkg.throttled = false
    ∧ base.pkg.lowered = none ∧ { base with pkg := { base.pkg with lowered := some 0 } }.now < 0 + nanos 10000
    ∧ ((leveled 3 none).clusters[(0 : ClusterNo)]).level < (leveled 3 none).wantedLevel 0
    ∧ 2000 ≤ 2000 ∧ 2000 ≤ 1000000 ∧ 1999 < 2000 ∧ 1000000 < 1000001 := by decide +kernel

/-- The package in a state. -/
def pkgIn (st : PkgState) : State := { base with pkg := { base.pkg with state := st } }

theorem witness_PowerLoss :
    (let s := { pkgIn .holdUp with now := nanos 2000 }; s.forceDue = true ∧ s.atBoundary 0 0 = true
      ∧ (s.ctxAt 0 0).atEntry = false ∧ ((s.onCx fun x => { x with atEntry := true }).ctxAt 0 0).atEntry = true)
    ∧ base.forceDue = false ∧ base.pkg.state = .run ∧ (pkgIn .holdUp).pkg.state = .holdUp
    ∧ ((pkgIn .holdUp).agenda.any fun d => d.ev == .powerFail) = false
    ∧ (pkgIn .powerOff).pkg.state = .powerOff ∧ (pkgIn .boot).pkg.state = .boot ∧ (pkgIn .boot).agenda = []
    ∧ (let s := { base with pkg := { base.pkg with state := .recovery, booting := some ⟨false, false, 0, [], [], [], []⟩ } };
      s.pkg.state = .recovery ∧ s.pkg.booting.isSome = true)
    ∧ base.pkg.frozen = false ∧ { base with pkg := { base.pkg with frozen := true } }.pkg.frozen = true
    ∧ ((base.onPart 0 fun p => { p with resume := some true }).part 0).resume = some true ∧ (base.part 0).resume = none
    ∧ base.pkg.check = none ∧ (1 : BitVec 40).getLsbD (0 : PartNo).val = true
    ∧ { base with pkg := { base.pkg with check := some (1, false, true) } }.pkg.check = some (1, false, true)
    ∧ base.agenda = [] := by decide +kernel

/-- Port 0 in a state. -/
def portIn (st : PortState) (n : Nat) : State := base.onPort 0 fun x => { x with st := st, replays := some (3, n) }

theorem witness_LinksAndTime : (portIn .up8 6).pkg.state = .run ∧ ((portIn .up8 6).ports[(0 : PortNo)]).st ≠ .down
    ∧ ((portIn .up8 6).ports[(0 : PortNo)]).st = .up8
    ∧ ((portIn .up8 6).ports[(0 : PortNo)]).retired = 0 ∧ ((portIn .up8 6).ports[(0 : PortNo)]).spareUsed = false
    ∧ ((portIn (.retrain true) 0).ports[(0 : PortNo)]).st = .retrain true
    ∧ { base with pkg := { base.pkg with ptpSource := some 2 } }.pkg.ptpSource = some 2
    ∧ base.time < (5 : Word).toNat ∧ base.pkg.ptpLocked = false ∧ base.agenda = [] := by decide +kernel

/-- Errors of device memory that have come. -/
def struck (corrected : Bool) : State := { base with errs := [(0, ⟨.dram 5, corrected⟩)] }

theorem witness_LinksAndTime_errors : (struck true).pkg.state = .run ∧ (struck false).pkg.state = .run
    ∧ (∀ d ∈ base.errs, base.now < d.1) ∧ (∀ b, ∀ d ∈ (struck b).errs, d.1 ≤ (struck b).now)
    ∧ ((portIn .up8 6).ports[(0 : PortNo)]).replays = some (3, 6) ∧ (base.ports[(0 : PortNo)]).replays = none := by
  decide +kernel

/-- R337: an uncorrectable error poisons its 64-byte unit, and a corrected one poisons nothing. -/
theorem test_patrol_scrub :
    (match execPatrolScrub (struck false) with
      | .next s => s.homePoison (.dram 320) 64 && !s.homePoison (.dram 384) 64
      | _ => false) = true
    ∧ (match execPatrolScrub (struck true) with
      | .next s => !s.homePoison (.dram 320) 64
      | _ => false) = true := by decide +kernel

/-- A protected partition whose function is VF 0, in a state of its interface. -/
def tenant (st : Tdisp) : State :=
  (base.onPart 0 fun p => { p with prot := true }).onFunc 1 fun x => { x with part := some 0, tdisp := st }

theorem witness_HostWrites_interface :
    (∀ st ∈ [Tdisp.unlocked, .locked, .run], (tenant st).tenant 1 = true ∧ ((tenant st).func 1).tdisp = st)
    ∧ base.tenant 1 = false ∧ ((tenant .run).func 1).isLocked = true ∧ ((tenant .run).func 1).part = some 0
    ∧ (tenant .run).funcOf 0 = 1 ∧ (base.func 1).isLocked = false ∧ base.pkg.state = .run ∧ (base.func 1).resetting = false
    ∧ ((base.onFunc 1 fun x => { x with resetting := true }).func 1).resetting = true
    ∧ base.hears 1 = true ∧ (base.queue 1 0).state ≠ .running ∧ base.verbBusy 1 = false
    ∧ (0x80000008 : Word).getLsbD 31 = true ∧ (0x80000008 : Word).toNat % 256 = 8 := by decide +kernel

theorem witness_HostWrites_memory :
    Mem.wf base.host = true ∧ Mem.wf base.dram = true ∧ (tenant .run).hostHome 1 0 8 true = some (.dram 0x200000)
    ∧ base.hostHome 1 0 8 true = none ∧ 0xBFFFFFFFF8 + 8 ≤ dramSize ∧ dramSize < 0xBFFFFFFFFC + 8
    ∧ { base with syncLines := [⟨.dram 0, none⟩] }.isSync (.dram 0) = true ∧ (base.leaf 0 0).isSome = true := by decide +kernel

/-- A state in which function `f` gives a verb the arguments. -/
def args (f : FuncNo) (a b c d : Nat) (s : State) : State := s.onFunc f fun x => { x with
  mbarg := (((x.mbarg.set 0 (BitVec.ofNat 64 a)).set 1 (BitVec.ofNat 64 b)).set 2 (BitVec.ofNat 64 c)).set 3 (BitVec.ofNat 64 d) }

/-- A partition creation record for VF 1 on cluster 1. -/
def pcr1 : List Byte := bytesOfNat 5 2 ++ [1] ++ bytesOfNat 2 0 ++ bytesOfNat 8 1 ++ bytesOfNat 32 0 ++ bytesOfNat 4 1000
  ++ bytesOfNat 4 0 ++ bytesOfNat 8 0x30000 ++ bytesOfNat 192 0

/-- Frames 5 and 6 of partition 0. -/
def framed5 (s : State) : State := { s with frames := [(5, .assigned, 0), (6, .mapped, 0)] }

theorem witness_MailboxVerbs_partitions : base.hears 0 = true ∧ base.verbBusy 0 = false ∧ (1 : FuncNo) ≠ 0
    ∧ (let s := args 0 0x1000 0 0 0 { base with host := Mem.writeBytes [] 0x1000 pcr1, pkg := { base.pkg with dn := some 1 } };
      s.pkg.dn.isSome = true ∧ (parsePcr (Mem.readBytes s.host (s.arg 0 0) 256)).2 = true
        ∧ s.clashes (parsePcr (Mem.readBytes s.host (s.arg 0 0) 256)).1 = false
        ∧ (List.finRange 40).find? (fun p => !(s.part p).live) = some 1)
    ∧ base.livePart (base.arg 0 0) = some 0 ∧ (base.part 0).prot = false
    ∧ (let s := args 0 7 2 0 0 (framed5 base); s.frameRange 0 = true ∧ s.livePart (s.arg 0 2) = some 0
      ∧ ∀ i < s.arg 0 1, s.frame? (s.arg 0 0 + i) = none)
    ∧ (let s := args 0 5 2 0 0 (framed5 base); s.frameRange 0 = true ∧ (∀ n ∈ s.reclaimed, s.reclaimable n = true)
      ∧ ∀ r ∈ s.liveParts, s.pagesOver r s.reclaimed = [] ∧ ∀ j ∈ (s.part r).jobs, j.takes s.reclaimed = false) := by
  decide +kernel

theorem witness_MailboxVerbs_settings :
    (let s := args 0 1000 100000 0 0 base; s.livePart (s.arg 0 3) = some 0 ∧ s.closed 0 = false ∧ 1000 ≤ s.arg 0 0
      ∧ s.arg 0 0 ≤ 10000000 ∧ 10 ≤ s.arg 0 1 ∧ s.arg 0 1 ≤ 100000)
    ∧ base.funcOf 0 = 1 ∧ (args 0 15 0 0x1000 0 base).migration 0 Queue.quiet = .ok (15, 0)
    ∧ (args 0 15 0 0x1000 0 base).migration 0 (fun x => x.state == .disabled) = .ok (15, 0)
    ∧ (args 0 15 0 0x1000 0 base).canWrite 0 0x1000 256 = true
    ∧ (let r := ((base.queue 1 15).record 15); let s := args 0 15 0 0x1000 0 { base with dram := Mem.writeBytes [] 0x201000 r };
      s.hubRead 0 (s.arg 0 2) 256 = some r ∧ leAt r 252 4 = (crc32c (r.take 252)).toNat ∧ leAt r 0 1 = 1)
    ∧ (let s := args 0 0 1 0x1000 0x800000 base; s.livePart (s.arg 0 0) = some 0 ∧ s.arg 0 1 < 2 ∧ s.arg 0 2 % 4096 = 0
      ∧ s.arg 0 2 < 2 ^ 52 ∧ s.arg 0 3 % 2 ^ 23 = 0 ∧ s.arg 0 3 < 2 ^ 52 ∧ s.canWrite 0 (s.arg 0 2) 4096 = true
      ∧ (s.part 0).windows[Fin.ofNat 2 (s.arg 0 1)] = none) := by decide +kernel

/-- Frame 32 to 63, those of the page mapped in `base`, and frame 64 for a page of 64 KiB, with tables for a page below
4 MiB. -/
def paged : State :=
  { base with frames := (List.range 33).map fun i => (32 + i, if i < 32 then .mapped else .assigned, 0) }

theorem witness_MailboxVerbs_pages :
    base.allQuiet = true
    ∧ (let s := args 0 0 0x200007 1 0 paged; let s1 := s.onFunc 0 fun x => { x with mbcmd := BitVec.ofNat 64 (6 + 2 ^ 31) };
      s.verbPart 0 (s.arg 0 3) = some 0 ∧ s.closed 0 = false
        ∧ s1.denies 0 0 ⟨0, 0x200007, 1, true, true⟩ = false ∧ s1.malformed 0 ⟨0, 0x200007, 1, true, true⟩ = false)
    ∧ (let s := args 0 0 0x200007 1 0 paged; let s1 := s.onFunc 0 fun x => { x with mbcmd := BitVec.ofNat 64 (7 + 2 ^ 31) };
      s1.denies 0 0 ⟨0, 0x200007, 2, true, true⟩ = false ∧ s1.malformed 0 ⟨0, 0x200007, 2, true, true⟩ = false)
    ∧ (let s := args 0 0x200000 0x400007 0 0 (paged.onPart 0 fun p => { p with
        pt := p.pt ++ [(0x10002008, 0x10003001)], poollim := 1 });
      let s1 := s.onFunc 0 fun x => { x with mbcmd := BitVec.ofNat 64 (5 + 2 ^ 31) };
      s1.denies 0 0 ⟨0x200000, 0x400007, 0, false, true⟩ = false
        ∧ s1.malformed 0 ⟨0x200000, 0x400007, 0, false, true⟩ = false
        ∧ (s1.addLeaf 0 0x200000 false 0x400007).isSome = true)
    ∧ (let s := base.onFunc 1 fun x => { x with part := some 0, mpcfg := 0x24, mptail := 1 };
      (s.headProposal 1).isSome = true) := by decide +kernel

theorem witness_PagesChange :
    (let j : PageJob := ⟨0, true, none, false, some (.mailbox 1), []⟩; let s := base.onPart 0 fun p => { p with jobs := [j] };
      s.job? 0 0 false = some j ∧ (s.leaf 0 0).isSome = true ∧ j.src = some (.mailbox 1) ∧ (1 : FuncNo) ≠ 0)
    ∧ (let j : PageJob := ⟨0, false, some 0x200003, false, some (.mailbox 1), []⟩; let s := base.onPart 0 fun p => { p with jobs := [j] };
      s.job? 0 0 false = some j ∧ (s.leaf 0 0).isSome = true ∧ j.leaf = some 0x200003)
    ∧ base.job? 0 0 true = none ∧ base.job? 0 0 false = none
    ∧ (∀ b ∈ [true, false], { base with frames := [(5, .scrub b, 0)] }.frame? 5 = some (.scrub b, 0))
    ∧ Mem.wf base.dram = true
    ∧ (pkgIn .boot).hears 1 = false ∧ (base.onFunc 1 fun x => { x with mbcmd := 0x80000001 }).verbBusy 1 = true := by
  decide +kernel

/-- A segment entry of the registers as they are. -/
def seg1 : SegEntry := ⟨1, 0, true, false, 0, base.cx.regs, none, none⟩

theorem witness_TrapsArrive :
    (let s := ctxOf fun x => { x with ints := [5, 3] };
      s.atBoundary 0 0 = true ∧ (s.ctxAt 0 0).afterIssue = none ∧ (s.ctxAt 0 0).faultedG = none ∧ (s.ctxAt 0 0).dq = []
        ∧ (s.ctxAt 0 0).intEnabled = true ∧ s.frameOk 0 0 = true ∧ 3 ∈ (s.ctxAt 0 0).ints
        ∧ (∀ m ∈ (s.ctxAt 0 0).ints, (3 : BitVec 10).toNat ≤ m.toNat) ∧ ¬ 4 ∈ (s.ctxAt 0 0).ints)
    ∧ (ctxOf fun x => { x with run := .halted }).atBoundary 0 0 = false ∧ base.partOf 0 = some 0
    ∧ (let s := ctxOf fun x => { x with segs := [seg1], exposed := true };
      (s.ctxAt 0 0).strikable = true ∧ (s.ctxAt 0 0).ended = false ∧ (s.ctxAt 0 0).exposedPast = true
        ∧ (s.ctxAt 0 0).run ≠ .free)
    ∧ (let s := ctxOf fun x => { x with segs := [seg1] };
      (∀ d, (s.ctxAt 0 d).strikable = true → (s.ctxAt 0 d).ended = false → (s.ctxAt 0 d).exposedPast = false)
        ∧ (s.ctxAt 0 0).rollSeg = some 1 ∧ (s.ctxAt 0 0).target.isSome = true) := by decide +kernel

theorem witness_MemoryLaws : Mem.wf [(3, 1), (5, 2)] = true ∧ Mem.wf [(3, 1)] = true := by decide

theorem witness_MemsStayWf : MemsWf base ∧ isNext (step base) = true := ⟨reset_mems, by decide +kernel⟩

/-- A bundle with D set in front of the context, whose entry it has made: a header, then ADD X5, X6, X7. -/
def placed : State := (ctxOf fun x => { x with reached := true }).onTile 0 fun x => { x with banks := x.banks.set 0 { x.banks[0] with
  mem := Mem.writeBytes [] 0 ((encodeHeader 7 true 0 [.S] :: encode ⟨.add 5 6 7, false, false⟩).flatMap bytesOfWord) } }

/-- The bundle it is. -/
def bundle1 : Bundle := ⟨7, true, 0, [(.S, ⟨.add 5 6 7, false, false⟩)], 2⟩

theorem witness_StepRunsInstruction_tries : placed.tries 0 0 bundle1 := by
  refine ⟨by decide +kernel, by decide +kernel, by decide +kernel, by decide +kernel, by decide +kernel, by decide +kernel,
    ?_, by decide +kernel, by decide +kernel, ?_, if_neg (by decide +kernel), if_neg (by decide +kernel), by decide +kernel,
    by decide +kernel, by decide +kernel⟩
  · exact Option.isNone_iff_eq_none.1 (by decide +kernel)
  · have h : (match (placed.turnState 0 0).fetch 0 0 with
      | .ok b => decide (b = bundle1)
      | .error _ => false) = true := by decide +kernel
    revert h
    cases (placed.turnState 0 0).fetch 0 0 with
    | ok b => simp
    | error e => simp

theorem witness_StepRunsInstruction :
    let s1 := placed.turnState 0 0
    let s0 : State := { s1.checked 0 0 bundle1 with slot := .S }
    placed.tries 0 0 bundle1 ∧ bundle1.items = [(.S, ⟨.add 5 6 7, false, false⟩)] ∧ bundle1.d = true
      ∧ ((placed.turnState 0 0).ctxAt 0 0).regs.rep = none ∧ (Instr.add 5 6 7).isWord = true ∧ Instr.add 5 6 7 ≠ .nop
      ∧ s0.ready (.add 5 6 7) = true ∧ (s1.issuing 0 0 bundle1).alive = true
      ∧ ∃ eff s2, issueOf (.add 5 6 7) s0 = .ok eff ∧ eff { s1.issuing 0 0 bundle1 with slot := .S } = some s2
        ∧ s2.alive = true ∧ s2.cur = .hw 0 0 :=
  ⟨witness_StepRunsInstruction_tries, rfl, rfl, by decide +kernel, rfl, by decide, by decide +kernel, by decide +kernel,
    _, _, rfl, rfl, by decide +kernel, by decide +kernel⟩

/-! ### What meets the further clauses of some claims -/

theorem witness_CsrInstructions_map : base.cur = .hw 0 0 ∧ base.partOf 0 = some 0 := by decide +kernel

/-- The leaf of every address of `base`'s page. -/
theorem base_leaf (o : Nat) (h : o < 2 ^ 21) : base.leaf 0 o = some ⟨0x200007, true⟩ := by
  have h1 : walk pages 0x10000000 o = some ⟨0x200007, true⟩ := by
    rw [walk, Nat.div_eq_of_lt (show o < 2 ^ 39 by omega), Nat.div_eq_of_lt (show o < 2 ^ 30 by omega), Nat.div_eq_of_lt h]
    rfl
  rw [State.leaf, if_pos (by omega), ← h1]
  rfl

/-- Every byte of the page of `base` is device memory 2 MiB on. -/
theorem base_translate (o : Nat) (h : o < 2 ^ 21) : base.translate 0 o true = .ok (.dram (0x200000 + o)) := by
  rw [State.translate, base_leaf o h]
  simp only [Leaf.home, Leaf.size, if_true]
  rw [show (Leaf.frame ⟨0x200007, true⟩) = 0x200000 by decide, Nat.mod_eq_of_lt h]
  rfl

theorem witness_TrapEntry_page (o : Nat) (h : o < 0x4000) :
    base.translate 0 (base.frameAt 0 0 + o) true = .ok (.dram (0x200000 + o)) := by
  rw [show base.frameAt 0 0 = 0 by decide +kernel, Nat.zero_add]
  exact base_translate o (by omega)

/-- The state after the entry of an interrupt with a result for V1 in flight. -/
def entered : State := (ctxOf fun x => { x with flight := [⟨0, 9, 0, .v 1 3, 0, 5, 1, 0, false⟩] }).takeTrap 0 0 .interrupt 0 5 0 false false

theorem witness_TrapEntry_memory : base.frameAt 0 0 = 0 ∧ base.partOf 0 = some 0 ∧ MemsWf base
    ∧ ((entered.ctxAt 0 0).frame.map fun f => decide (f.latches.length = 1 ∧ f.defer.length ≤ 32 ∧ f.pend.length ≤ 128)) = some true
    ∧ base.clineKeys (clusterOf 0) 0 [(0, 0x2400)] = [] ∧ base.lineKeys 0 0 [(0, 0x2400)] = [] :=
  ⟨by decide +kernel, by decide +kernel, reset_mems, by decide +kernel, by decide +kernel, by decide +kernel⟩

theorem witness_TrapEntry_lines : let s := base.setLine 0 (lineKey 0 0) ⟨0, Vector.replicate 4 0, .dram 0x200000, 0⟩
    s.lineKeys 0 0 [(0, 0x2400)] = [lineKey 0 0] ∧ (s.line? 0 (lineKey 0 0)).map (·.anyDirty) = some 0 := by decide +kernel

theorem witness_MatrixResultLands_contents : MType.width .rb8 = some .rb8 ∧ resValid 0 = true
    ∧ [panel .rb8].length = [panel .rb8].length ∧ ¬ ((panel .rb8).recAt 32 0 % 256 = 255)
    ∧ elemQ .rb8 ((panel .rb8).recAt 32 0) 0 = 0 ∧ elemQ .rb8 (0x80 * 2 ^ 8) 0 = -2 ^ 7
    ∧ (∀ b ∈ [true, false], ((fed [] [] fun r => { r with xmode := b }).cx.rts[0]).xmode = b)
    ∧ (let r := ((fed [] [] fun r => { r with te := 9 }).cx.rts[0]); 8 < r.te.toNat ∧ ¬ (9 < r.te.toNat)) := by decide +kernel

theorem witness_GlobalCompletion_serves : base.serves 0 0 0 8 (.dram 0x200000) true := by
  intro q hq
  rw [show piecesOf 0 8 = [(0, 8)] by decide, List.mem_singleton] at hq
  subst hq
  refine ⟨base_translate 0 (by decide), by decide +kernel, by decide +kernel, ⟨by decide +kernel, by decide +kernel,
    by decide +kernel, by decide +kernel⟩, fun l hl => ?_, fun l hl => ?_⟩
  · rw [show base.line? 0 (lineKey 0 0) = none by decide +kernel] at hl; cases hl
  · rw [show base.cline? (clusterOf 0) (lineKey 0 0) = none by decide +kernel] at hl; cases hl

/-- A line of `base` whose first byte is dirty for context 0. -/
def dirtyLine : Line := ⟨7, (Vector.replicate 4 0).set 0 1, .dram 0x200000, 0⟩

theorem witness_GlobalCompletion_dirty : (base.setLine 0 (lineKey 0 0) dirtyLine).oneDirty 0 0 0 [(0, 256)] (lineKey 0 0)
    dirtyLine 0x200000 :=
  ⟨by decide +kernel, by decide +kernel, by decide +kernel, rfl, by decide, rfl, by decide +kernel, by decide +kernel,
    ⟨by decide +kernel, by decide +kernel, by decide +kernel, by decide +kernel⟩, by decide, by unfold MemsWf; decide +kernel⟩

/-- `base` with ranges bound to the object at the page's start. -/
def bound (m : Map Bind) : State := base.onPart 0 fun p => { p with binds := m }

theorem bound_full : Map.freeFrom ((bound (fullFrom 0 1024 ⟨.dram 0x200000, 0, 256⟩)).part 0).binds 0 1024 = none := by
  rw [show ((bound (fullFrom 0 1024 ⟨.dram 0x200000, 0, 256⟩)).part 0).binds = fullFrom 0 1024 ⟨.dram 0x200000, 0, 256⟩ by
    simp [bound, State.onPart, State.part]]
  exact freeFrom_full _ _ _ 0 fun i h1 h2 => fullFrom_get _ _ 0 i h1 h2

theorem witness_GlobalCompletion_objects :
    (let s := base; s.lost (.dram 0x200000) = false ∧ s.homePoison (.dram 0x200000) 8 = false
      ∧ s.translate 0 0 false = .ok (.dram 0x200000) ∧ Home.dram 0x200000 ∉ s.incomplete
      ∧ Home.dram 0x200000 ∈ { s with incomplete := [.dram 0x200000] }.incomplete
      ∧ { s with syncLines := [⟨.dram 0x200000, none⟩] }.isSync (.dram 0x200000) = true)
    ∧ (let v := (base.makeSync 0 0 (.dram 0x200000) (some 0)).readQ (.dram 0x200000);
      (0 : Word).toNat ≤ v.toNat ∧ v.toNat < (1 : Word).toNat)
    ∧ Map.freeFrom (base.part 0).binds 0 1024 = some 0
    ∧ (∃ b ∈ ((bound [(0, ⟨.dram 0x200000, 0, 256⟩)]).part 0).binds, b.2.lo < 255 + 1 ∧ 255 < b.2.lo + b.2.len)
    ∧ scopeReach .grp = 3
    ∧ (let s := peering.setLine 0 (lineKey 0 0) { dirtyLine with home := .peer 3 0 };
      s.lost (.peer 3 0) = true ∧ s.dirtyIn 0 (some 0) [(0, 256)] (lineKey 0 0) ≠ 0) := by decide +kernel

/-- A store of eight bytes, alone in the hold of its context, whose segment may leave. -/
def storing (st : GStat) : State :=
  (flying [going (.gst .d 1 ⟨0, false, 0⟩) 0 7 st] base).onCx fun x => { x with
    freed := 1, hold := [⟨0, 0, 0, .store 7 0 [1, 2, 3, 4, 5, 6, 7, 8] false⟩] }

theorem witness_GlobalCompletion_ends :
    (let s := storing .outstanding; let x := s.ctxAt 0 0; let g := going (.gst .d 1 ⟨0, false, 0⟩) 0 7 .outstanding;
      s.partOf 0 = some 0 ∧ isGStore g.ins.ins = true ∧ x.inFrame 7 = false ∧ g.uncounted = false ∧ x.run ≠ .winding
        ∧ x.hold = [⟨0, 0, 0, .store 7 0 [1, 2, 3, 4, 5, 6, 7, 8] false⟩]
        ∧ x.mayLeave ⟨0, 0, 0, .store 7 0 [1, 2, 3, 4, 5, 6, 7, 8] false⟩ = true
        ∧ (∀ z ∈ piecesOf 0 8, s.direct ((Home.dram 0x200000).add (z.1 - 0)) = false)
        ∧ ∀ z ∈ piecesOf 0 8, { s with syncLines := [⟨.dram 0x200000, none⟩] }.direct ((Home.dram 0x200000).add (z.1 - 0)) = true)
    ∧ (let s := flying [access .outstanding] base; (∀ k ∈ (s.ctxAt 0 0).hold, (s.ctxAt 0 0).mayLeave k = false)
      ∧ (s.ctxAt 0 0).inFrame 7 = false ∧ (s.ctxAt 0 0).frame = none)
    ∧ ((framed [access .outstanding]).ctxAt 0 0).inFrame 7 = true := by decide +kernel

theorem witness_TaskSteps_joins :
    (let s := waiting none base; let s0 := s.makeSync 0 0 (.dram 0x200000) none; let w := s0.readQ (.dram 0x200008);
      s.flipping 0 (0, 16) = false ∧ (s0.readQ (.dram 0x200000)).toNat < (1 : Word).toNat ∧ sigWcnt w < 4095
        ∧ s.lost (.dram 0x200000) = false ∧ s0.chain 0 (sigWhead w) (sigWcnt w) ++ [0] = [0] ∧ [0].Nodup
        ∧ (∀ j ∈ [0], (s0.cont? 0 j).isSome = true)
        ∧ 4095 ≤ sigWcnt (sigWaiters 0 4095 0))
    ∧ (let s := waiting none (barrier (2 ^ 22) 0); let q := s.barTurn 0 0 (orderKey 0 0);
      let s0 := q.2.readExposes 0 (some 0) 0 16; let b := s0.bar 0 0;
      q.1 ≤ s.now ∧ barGen b = 0 ∧ barWcnt b < 4095 ∧ s0.chain 0 (barWhead b) (barWcnt b) ++ [0] = [0]
        ∧ (∀ j ∈ [0], (s0.cont? 0 j).isSome = true))
    ∧ 4095 ≤ barWcnt (BitVec.ofNat 128 (2 ^ 104 - 1))
    ∧ ((base.onPart 0 fun p => { p with jobs := [⟨0, true, none, true, none, []⟩] }).flipping 0 (0, 16) = true)
    ∧ MemsWf (waiting none base) ∧ MemsWf (waiting none (barrier (2 ^ 22) 0)) := by
  refine ⟨by decide +kernel, by decide +kernel, by decide +kernel, by decide +kernel, ?_, ?_⟩ <;> unfold MemsWf <;> decide +kernel

theorem witness_Scheduling_banks : (base.tile 0).bankBarred 0 0 = false ∧ base.hubPoison 0 0 0x8000 = false := by
  decide +kernel

/-- A table at address 0x2000 whose entry 1 has CTL `ctl` and the period `n`. -/
def timetable (ctl : Byte) (n : Nat) : State :=
  let s := (queued []).onPart 0 fun p => { p with ttab := 0x2000 }
  { s with dram := Mem.writeBytes (Mem.writeBytes s.dram 0x202048 (bytesOfNat 8 n)) 0x202058 [ctl] }

theorem witness_QueuesServe_table (o : Nat) (h : o < 64) (w : Bool) :
    base.translate 0 (0x2040 + o) w = .ok (.dram (0x202040 + o)) := by
  have h0 := base_translate (0x2040 + o) (by omega)
  rw [← Nat.add_assoc] at h0
  cases w with
  | true => exact h0
  | false =>
    rw [State.translate, base_leaf (0x2040 + o) (by omega)] at h0 ⊢
    exact h0

theorem witness_QueuesServe_releases : (∀ z ∈ [((0x01 : Byte), 0), (0x41, 100), (0x43, 0), (0x63, 7)],
      let s := timetable z.1 z.2; let e : Fin 64 := 1;
      e ≠ 0 ∧ s.gondolaServes (s.funcOf 0) 0 = true ∧ (s.part 0).ttOpen = [] ∧ (Mem.read s.dram (0x202040 + 24)).getLsbD 0 = true
        ∧ Mem.readNat s.dram 0x202040 8 ≤ s.time)
    ∧ MemsWf (timetable 0x43 7) := by
  refine ⟨by decide +kernel, ?_⟩
  unfold MemsWf
  decide +kernel

theorem witness_QueuesServe_launch : read? ((withDesc base).readDesc 0 0x1000) = true ∧ desc1.dext = []
    ∧ ((queued []).tile 0).quarantined = false ∧ (((queued []).onTile 0 fun x => { x with power := .off }).tile 0).power = .off := by
  decide +kernel

theorem witness_PowerSteps_throttle :
    (let s := { leveled 3 none with pkg := { base.pkg with lowered := some 0 }, now := nanos 10000 };
      ∀ n, s.pkg.lowered = some n → n + nanos 10000 ≤ s.now)
    ∧ ((leveled 3 (some 4)).clusters[(0 : ClusterNo)]).change.isSome = true
    ∧ (leveled 3 none).liveParts = [0] ∧ (tileIn .idle).partOf 0 = some 0 ∧ ((tileIn .idle).tile 0).power = .idle := by
  refine ⟨?_, by decide +kernel⟩
  intro s n h
  cases h
  decide

/-- Context 0 at a boundary 2 µs into a hold-up, with the trap its bundle raised. -/
def holdingUp (k : Option (Cause × BitVec 20)) : State :=
  { (pkgIn .holdUp).onCx (fun x => { x with afterIssue := k, mops := [zeroing 5], flight := [inFlight 5] }) with
    now := nanos 2000 }

/-- A partition that resumes: its context saved, one bay kept. -/
def resuming (may : Bool) : State :=
  let v : CtxSave := ⟨2, true, .bound, base.cx, [], [], [], 0⟩
  (base.onPart 0 fun p => { p with resume := some may }).onTile 0 fun x => { x with
    resume := some ⟨true, (Vector.replicate 4 none).set 0 (some v), [(5, [1, 2])], 0⟩ }

/-- The same with events in a ring in host memory. -/
def reporting (may : Bool) : State := (resuming may).onFunc 1 fun x => { x with part := some 0, evcfg := 0x66 }

theorem witness_PowerLoss_saves : (∀ k ∈ [none, some (Cause.systemCall, 5)], let s := holdingUp k;
      s.forceDue = true ∧ s.atBoundary 0 0 = true ∧ (s.ctxAt 0 0).atEntry = false ∧ (s.ctxAt 0 0).afterIssue = k
        ∧ (s.ctxAt 0 0).frame = none ∧ s.frameOk 0 0 = true)
    ∧ (resuming true).recordsHold 0 = false
    ∧ (let s := (List.finRange 160).foldl (fun s t => if s.partOf t = some 0 then s.onTile t fun x => { x with
          resume := some (x.resume.getD ⟨true, Vector.replicate 4 none, [], 0⟩) } else s) (resuming true);
      (s.part 0).resume = some true ∧ s.recordsHold 0 = true ∧ (∀ u, s.partOf u = some 0 → (s.tile u).sweepPoison = [])
        ∧ (s.tile 0).resume.isSome = true ∧ Mem.wf (s.tile 0).sp = true)
    ∧ (let s := reporting false; (s.part 0).resume = some false ∧ s.funcOf 0 = 1
      ∧ (∀ q, (s.queue 1 q).state = .running → (s.queue 1 q).host = true)
      ∧ (s.func 1).evcfg.getLsbD 6 = true ∧ (s.func 1).evcfg.getLsbD 5 = true
      ∧ ((s.func 1).evtail - (s.func 1).evhead).toNat < 2 ^ ((s.func 1).evcfg.extractLsb' 0 5).toNat)
    ∧ ((resuming false).func ((resuming false).funcOf 0)).evcfg.getLsbD 6 = false
    ∧ MemsWf (reporting false) := by
  refine ⟨by decide +kernel, by decide +kernel, by decide +kernel, by decide +kernel, by decide +kernel, ?_⟩
  unfold MemsWf
  decide +kernel

theorem witness_LinksAndTime_system : Map.getD (struck false).sysCache (5 / 4) false = false := by decide +kernel

theorem witness_HostWrites_locked : (∀ st ∈ [Tdisp.locked, .run], let s := tenant st;
      (s.func 1).isLocked = true ∧ (s.func 1).part = some 0 ∧ s.funcOf 0 = 1 ∧ s.hears 1 = true
        ∧ ((s.func 1).queues[(0 : QueueNo)]).relocates 5 = true ∧ ¬ (s.pkg.gondola = .recovery ∧ (5 : Word).getLsbD 8 = true)
        ∧ ((s.func 1).newEvcfg 0x66 ^^^ (s.func 1).evcfg) &&& 0x3F ≠ 0 ∧ ((s.func 1).newMpcfg 4 ^^^ (s.func 1).mpcfg) &&& 0xF ≠ 0)
    ∧ (let s := (tenant .run).onPart 0 fun p => { p with jobs := [⟨0, true, none, true, none, []⟩] }; s.hostFlip 1 0 8 = true)
    ∧ (tenant .run).hostFlip 1 0 8 = false ∧ (pkgIn .boot).pkg.state ≠ .run := by decide +kernel

theorem witness_PagesChange_leaf :
    (let j : PageJob := ⟨0, true, none, false, none, []⟩;
      let s := paged.onPart 0 fun p => { p with jobs := [j] };
      s.job? 0 0 false = some j ∧ s.leaf 0 0 = some ⟨0x200007, true⟩ ∧ s.reclaiming = false ∧ s.frame? 32 = some (.mapped, 0))
    ∧ (let j : PageJob := ⟨0, true, some 0x200003, false, none, []⟩;
      let s := base.onPart 0 fun p => { p with jobs := [j], pt := [(0x10000000, 0x10001001), (0x10001000, 0x10002001)] };
      s.job? 0 0 false = some j ∧ s.leaf 0 0 = none ∧ s.tabled 0 0 true ∧ Leaf.ok ⟨0x200003, true⟩ = true)
    ∧ (let j : PageJob := ⟨0, true, some 0x20000F, true, none, []⟩;
      let s := base.onPart 0 fun p => { p with jobs := [j] };
      s.job? 0 0 true = some j ∧ s.leaf 0 0 = some ⟨0x200007, true⟩ ∧ s.tabled 0 0 true ∧ Leaf.ok ⟨0x20000F, true⟩ = true
        ∧ (s.part 0).ttCtl = [] ∧ (s.part 0).faulted = false ∧ s.lost (Leaf.home ⟨0x20000F, true⟩ 0) = false) := by
  unfold State.tabled
  decide +kernel

theorem witness_VectorParts_values : [(0 : HWord), 0x80000000, 1, 0x3F800000].all f32Fin = true
    ∧ [(0x7F800000 : HWord), 0xFF800000].all f32Inf = true ∧ [(0x7FC00000 : HWord), 0x7F800001].all f32Nan = true
    ∧ f32Code 0x80000000 = 0 ∧ f32Neg 0xBF800000 = true ∧ f32Int 0x3F800000 = 1 * 2 ^ 149
    ∧ (canonNan.toNat % 2 ^ 15 < 2 ^ 15) ∧ (0x7C00 : HWord).toNat % 2 ^ 15 = f16.inf ∧ 255 % 256 = 255 := by decide +kernel

/-! ### Values the spec writes out, and corners computed by hand from its rules -/

/-- The value and the latency of the one result in flight after an instruction issues. -/
def result (i : Instr) (s : State) : Option (Word × Nat) :=
  match exec i s with
  | .next t => match t.cx.flight with
    | [f] => some (f.val, f.due - f.issued)
    | _ => none
  | _ => none

/-- R40: integer arithmetic wraps; a result lands after the latency of R134. -/
theorem test_add_wraps : result (.add 4 1 2) (xsOf (BitVec.allOnes 64) 1 0) = some (0, 1) := by decide +kernel

/-- R42: the quotient of the most negative number and -1 is the most negative number. -/
theorem test_div_corner : result (.div 4 1 2) (xsOf 0x8000000000000000 (BitVec.allOnes 64) 0)
    = some (0x8000000000000000, 20) := by decide +kernel

/-- R43: 4 bits at offset 60 replaced. -/
theorem test_bfi : bfi 0x123 5 60 4 = 0x5000000000000123 := by decide +kernel

/-- R130: leading zeros. -/
theorem test_clz : result (.clz 4 1) (xsOf 0x8000 0 0) = some (48, 1) := by decide +kernel

/-- R131: 1.0 + 2.0 is 3.0, with zeros above the FP32 result. -/
theorem test_fadd : result (.fadd 4 1 2) (xsOf 0x3F800000 0xFFFFFFFF40000000 0) = some (0x40400000, 4) := by decide +kernel

/-- R48: the round trip the spec writes out, -1,000 as the triple of 24, 20 and 28. -/
theorem test_residues : toRes (-1000) = BitVec.ofNat 32 (24 + 256 * 20 + 65536 * 28) ∧ fromRes (toRes (-1000)) = -1000 := by
  decide +kernel

/-- R217: the CRC32C of the nine bytes 123456789. -/
theorem test_crc32c : crc32c [0x31, 0x32, 0x33, 0x34, 0x35, 0x36, 0x37, 0x38, 0x39] = 0xE3069283 := by decide +kernel

/-- R339: the placement the spec works out, of the address 0x3_5B2C_7890 under the KEY 0x05. -/
theorem test_placement : (let s := { base with pkg := { base.pkg with chashKey := 5 } };
    (s.colourOf 0x35B2C7890, s.cacheSet 0x35B2C7890, channelOf 0x35B2C7890)) = (54, 55416, 7) := by decide +kernel

/-- R104: a branch out of the bank traps, with Illegal Operand in TCAUSE. -/
theorem test_branch_out : (match exec (.br .al 0 0 0x8000) base with
    | .next t => (t.cx.regs.tcause, t.cx.regs.priv)
    | _ => (0, .U)) = (0x04, .S) := by decide +kernel

/-- R136, R302: TRAP 0x12345 leaves its code above the cause. -/
theorem test_trap_code : (match exec (.trap 0x12345) base with
    | .next t => t.cx.regs.tcause
    | _ => 0) = 0x1234500018 := by decide +kernel

/-- R158: the pairwise tree over four values, 1 + 2 and 3 + 4 first. -/
theorem test_tree : (redTree .iadd (fpCtlOf 0) 2 [1, 2, 3, 4]).1 = 10 := by decide +kernel

/-- R197: a stored word is little-endian, and the bay becomes READY. -/
theorem test_store : (match exec (.pstsc .w 1 (at5 8)) ((bayOf false .empty).onRegs fun g => { g with xs := g.xs.set 1 0x0A0B0C0D }) with
    | .next t => (Mem.readBytes (t.tile 0).sp 8 4, (t.bay 5).st)
    | _ => ([], .empty)) = ([0x0D, 0x0C, 0x0B, 0x0A], .ready) := by decide +kernel

/-- R25, R193: BINIT with a count of 1 writes PEND 1, EXP 1 and generation 1. -/
theorem test_binit : (match exec (.binit 1 false (at5 0)) (barrier 0 1) with
    | .next t => (t.bar 0 0).toNat
    | _ => 0) = 2 ^ 22 + 2 ^ 8 + 1 := by decide +kernel

/-- A function's registers at reset as reads give them while the link exposes them (R370, R398): QCFG is 4, TDISPST and
QSTAT 0, a 4-byte read takes its half, an access that is not aligned reads all ones. -/
theorem test_register_read : base.registerRead 1 8 8 = 4 ∧ base.registerRead 1 0x700 8 = 0
    ∧ base.registerRead 1 0x20 8 = 0 ∧ base.registerRead 1 0x4C 4 = 0
    ∧ base.registerRead 1 0x48 4 = 4 ∧ base.registerRead 1 0x701 8 = BitVec.allOnes 64 := by decide +kernel

/-- An opcode that R76 leaves unassigned, and a reserved bit that is 1, are refused. -/
theorem test_refused : decodeTableWord 32 0x00000FF0 = none ∧ decodeTableWord 32 0x298E0201 = none
    ∧ decodeTableWord 32 0x298E1200 = none := by decide

/-- A placed instruction runs as the first one. -/
theorem test_first_step : isNext (step (State.reset.withFetchWord 32 0x298E0200)) = true := by decide +kernel

end Sys2Proof.Tests
end

section
/-! What an entry leaves of the contexts: the frame goes to memory and to the scratchpad, so every context stands as it
was but for the acting one, which stands at its handler (R304 to R307). -/

namespace Sys2Proof.Machine

/-! ### Changes below the contexts -/

/-- Every context stands as before, and the same one acts. -/
def State.keepsCtxs (s r : State) : Prop := r.cur = s.cur ∧ ∀ (u : TileNo) (d : CtxNo), r.ctxAt u d = s.ctxAt u d

theorem State.keepsCtxs_refl (s : State) : s.keepsCtxs s := ⟨rfl, fun _ _ => rfl⟩

theorem State.keepsCtxs.trans {s r q : State} (h : s.keepsCtxs r) (h2 : r.keepsCtxs q) : s.keepsCtxs q :=
  ⟨h2.1.trans h.1, fun u d => (h2.2 u d).trans (h.2 u d)⟩

theorem State.keepsCtxs_of_tiles {s r : State} (hc : r.cur = s.cur) (ht : r.tiles = s.tiles) : s.keepsCtxs r :=
  ⟨hc, fun u d => by simp only [State.ctxAt, State.tile, ht]⟩

theorem State.sameButMems.keepsCtxs {s r : State} (h : s.sameButMems r) : s.keepsCtxs r := by
  unfold State.sameButMems at h
  exact State.keepsCtxs_of_tiles (congrArg State.cur h :) (congrArg State.tiles h :)

theorem State.keepsCtxs_onTile (s : State) (t : TileNo) {f : Tile → Tile} (hf : ∀ x, (f x).ctxs = x.ctxs) :
    s.keepsCtxs (s.onTile t f) := by
  refine ⟨rfl, fun u d => ?_⟩
  simp only [State.ctxAt, State.tile_onTile]
  split
  case isTrue h => subst h; simp only [hf]
  case isFalse => rfl

theorem State.keepsCtxs_foldl {α : Type} {f : State → α → State} (hf : ∀ (s : State) (a : α), s.keepsCtxs (f s a))
    (s : State) (l : List α) : s.keepsCtxs (l.foldl f s) :=
  List.foldlRecOn (motive := s.keepsCtxs) l f s.keepsCtxs_refl fun r h a _ => h.trans (hf r a)

/-! ### The caches -/

theorem State.poisonHome_mems (s : State) (h : Home) : s.sameButMems (s.poisonHome h) := by
  cases h with
  | dram a => unfold State.poisonHome; dsimp only; split <;> rfl
  | host a => rfl
  | peer d a => rfl

theorem State.homeMerge_mems (s : State) (h : Home) (m : BitVec 256) (d : BitVec 2048) (bad : BitVec 4) :
    s.sameButMems (s.homeMerge h m d bad) := by
  refine State.foldl_mems _ (fun r i => ?_) _ s
  dsimp only
  split
  · rfl
  · split
    · exact (r.homeWrite_mems _ _).trans (State.poisonHome_mems _ _)
    · exact r.homeWrite_mems _ _

theorem State.keepsCtxs_flushCline (s : State) (k : ClusterNo) (key : Nat) : s.keepsCtxs (s.flushCline k key) := by
  unfold State.flushCline
  split
  · exact s.keepsCtxs_refl
  · split
    · exact s.keepsCtxs_refl
    · exact (s.homeMerge_mems ..).keepsCtxs.trans (State.keepsCtxs_of_tiles rfl rfl)

theorem State.keepsCtxs_dropCline (s : State) (k : ClusterNo) (key : Nat) : s.keepsCtxs (s.dropCline k key) :=
  (s.keepsCtxs_flushCline k key).trans (State.keepsCtxs_of_tiles rfl rfl)

theorem State.keepsCtxs_roomCline (s : State) (k : ClusterNo) (key : Nat) : s.keepsCtxs (s.roomCline k key) := by
  unfold State.roomCline
  split
  · exact s.keepsCtxs_refl
  · exact (State.keepsCtxs_of_tiles (r := s.drew) rfl rfl).trans (State.keepsCtxs_dropCline ..)

theorem State.keepsCtxs_fetchLine (s : State) (t : TileNo) (key : Nat) (h : Home) :
    s.keepsCtxs (s.fetchLine t key h).2 := by
  cases h with
  | dram a =>
    simp only [State.fetchLine]
    split
    · exact s.keepsCtxs_refl
    · have hread : s.keepsCtxs (s.sysRead a) := State.keepsCtxs_of_tiles rfl rfl
      exact (hread.trans (State.keepsCtxs_roomCline ..)).trans (State.keepsCtxs_of_tiles rfl rfl)
  | host a => exact s.keepsCtxs_refl
  | peer d a => exact s.keepsCtxs_refl

theorem State.keepsCtxs_refreshLine (s : State) (t : TileNo) (key : Nat) : s.keepsCtxs (s.refreshLine t key) := by
  unfold State.refreshLine
  split
  · exact s.keepsCtxs_refl
  · split
    · exact s.keepsCtxs_onTile t fun _ => rfl
    · exact (s.keepsCtxs_fetchLine ..).trans (State.keepsCtxs_onTile _ t fun _ => rfl)

theorem State.keepsCtxs_refresh (s : State) (t : TileNo) (rs : Ranges) (sc : Scope) : s.keepsCtxs (s.refresh t rs sc) := by
  unfold State.refresh
  split
  · exact s.keepsCtxs_refl
  · refine State.keepsCtxs.trans ?_ (State.keepsCtxs_foldl (fun r key => r.keepsCtxs_refreshLine t key) _ _)
    split
    · exact State.keepsCtxs_foldl (fun r key => r.keepsCtxs_dropCline _ key) _ _
    · exact s.keepsCtxs_refl

/-! ### The frame -/

theorem Tile.fillRegion_ctxs (x : Tile) (c : CtxNo) (f : Frame) : (x.fillRegion c f).ctxs = x.ctxs :=
  List.foldlRecOn (motive := fun y : Tile => y.ctxs = x.ctxs) _ _ rfl fun _ h _ _ => h

theorem State.keepsCtxs_writeFrame (s : State) (t : TileNo) (c : CtxNo) (f : Frame) :
    s.keepsCtxs (s.writeFrame t c f) := by
  unfold State.writeFrame
  split
  case h_1 => exact s.keepsCtxs_refl
  case h_2 p _ =>
    have hpiece (r : State) (e : Nat × List Byte) : r.keepsCtxs (r.hubWrite p (s.frameAt t c + e.1) e.2) :=
      (r.hubWrite_mems p _ e.2).keepsCtxs
    exact ((State.keepsCtxs_foldl hpiece s _).trans (State.keepsCtxs_refresh ..)).trans
      (State.keepsCtxs_onTile _ t fun x => x.fillRegion_ctxs c f)

/-- A trap of the acting context with no frame live and a frame area that takes one: the context stands at its handler,
with the PC of its bundle in the frame. -/
theorem State.trapCur_cx {s : State} {t : TileNo} {c : CtxNo} (cause : Cause) (hcur : s.cur = .hw t c)
    (hframe : s.cx.frame = none) (hok : s.frameOk t c = true) :
    (s.trapCur cause).cx = s.cx.entered
      (s.newFrame t c (causeWord cause s.slot.index.val false 0) s.cx.regs.pc false false) (s.tile t).cycle := by
  rw [State.cx_of hcur] at hframe ⊢
  have hkeep := s.keepsCtxs_writeFrame t c
    (s.newFrame t c (causeWord cause s.slot.index.val false 0) (s.ctxAt t c).regs.pc false false)
  simp only [State.trapCur, hcur, State.takeTrap_taken _ _ _ _ _ _ hframe hok]
  rw [State.cx_of (t := t) (c := c) (by exact hkeep.1.trans hcur)]
  simp [hkeep.2]

/-- An entry leaves the X registers. -/
theorem Ctx.entered_xs (x : Ctx) (f : Frame) (now : Nat) : (x.entered f now).regs.xs = x.regs.xs := rfl

end Sys2Proof.Machine
end

section
/-! Division (R42) and bit fields (R43). -/

namespace Sys2Proof.Machine

/-! ### Scalar results and traps at issue -/

/-- A ready scalar instruction puts its result in flight. -/
theorem State.conclude_scalar {s : State} {i : Instr} (h : s.ready i = true) (lat : Nat) (d : XReg) (v : Word) (fl : Fl) :
    s.conclude i (scalar lat d v fl) = .next (s.flyX lat d v fl) := State.conclude_done h

theorem exec_div {s : State} {d a b : XReg} (h : s.ready (.div d a b) = true) :
    exec (.div d a b) s = .next (s.flyX 20 d (divS (s.x a) (s.x b))) := State.conclude_scalar h ..

theorem exec_divu {s : State} {d a b : XReg} (h : s.ready (.divu d a b) = true) :
    exec (.divu d a b) s = .next (s.flyX 20 d (divU (s.x a) (s.x b))) := State.conclude_scalar h ..

theorem exec_rem {s : State} {d a b : XReg} (h : s.ready (.rem d a b) = true) :
    exec (.rem d a b) s = .next (s.flyX 20 d (remS (s.x a) (s.x b))) := State.conclude_scalar h ..

theorem exec_bfx_inRange {s : State} {d a b c : XReg} (h : s.ready (.bfx d a b c) = true) (ho : (s.x b).toNat < 64)
    (hw : (s.x c).toNat ≤ 64) :
    exec (.bfx d a b c) s = .next (s.flyX 1 d (bfx (s.x a) (s.x b).toNat (s.x c).toNat)) := by
  show s.conclude _ (issueBfx d a b c s) = _
  rw [issueBfx, if_pos ⟨ho, hw⟩, State.conclude_scalar h]

theorem exec_bfi_inRange {s : State} {d a b c : XReg} (h : s.ready (.bfi d a b c) = true) (ho : (s.x b).toNat < 64)
    (hw : (s.x c).toNat ≤ 64) :
    exec (.bfi d a b c) s = .next (s.flyX 1 d (bfi (s.x d) (s.x a) (s.x b).toNat (s.x c).toNat)) := by
  show s.conclude _ (issueBfi d a b c s) = _
  rw [issueBfi, if_pos ⟨ho, hw⟩, State.conclude_scalar h]

theorem exec_bfx_outOfRange {s : State} {d a b c : XReg} (h : s.ready (.bfx d a b c) = true)
    (hr : 64 ≤ (s.x b).toNat ∨ 64 < (s.x c).toNat) : exec (.bfx d a b c) s = .next (s.trapCur .illegalOperand) := by
  show s.conclude _ (issueBfx d a b c s) = _
  rw [issueBfx, if_neg (by omega), State.conclude_trap h]

theorem exec_bfi_outOfRange {s : State} {d a b c : XReg} (h : s.ready (.bfi d a b c) = true)
    (hr : 64 ≤ (s.x b).toNat ∨ 64 < (s.x c).toNat) : exec (.bfi d a b c) s = .next (s.trapCur .illegalOperand) := by
  show s.conclude _ (issueBfi d a b c s) = _
  rw [issueBfi, if_neg (by omega), State.conclude_trap h]

/-! ### Division -/

/-- The one quotient that 64 bits do not hold wraps to the dividend. -/
theorem divS_intMin_neg_one : divS (BitVec.intMin 64) (BitVec.allOnes 64) = BitVec.intMin 64 := by decide

theorem remS_intMin_neg_one : remS (BitVec.intMin 64) (BitVec.allOnes 64) = 0 := by decide

theorem divS_eq (a b : Word) :
    divS a b = if b = 0 then BitVec.allOnes 64
      else if a = BitVec.intMin 64 ∧ b = BitVec.allOnes 64 then BitVec.intMin 64
      else BitVec.ofInt 64 (a.toInt.tdiv b.toInt) := by
  by_cases hcorner : a = BitVec.intMin 64 ∧ b = BitVec.allOnes 64
  · obtain ⟨rfl, rfl⟩ := hcorner
    rw [if_neg (by decide), if_pos ⟨rfl, rfl⟩, divS_intMin_neg_one]
  · rw [if_neg hcorner, divS]

theorem remS_eq (a b : Word) :
    remS a b = if b = 0 then a
      else if a = BitVec.intMin 64 ∧ b = BitVec.allOnes 64 then 0
      else BitVec.ofInt 64 (a.toInt.tmod b.toInt) := by
  by_cases hcorner : a = BitVec.intMin 64 ∧ b = BitVec.allOnes 64
  · obtain ⟨rfl, rfl⟩ := hcorner
    rw [if_neg (by decide), if_pos ⟨rfl, rfl⟩, remS_intMin_neg_one]
  · rw [if_neg hcorner, remS]

/-- Settles O8: each form is its value function put in flight, and the one signed corner is where the quotient wraps. -/
theorem divisionResults : Obligations.DivisionResults := by
  unfold Obligations.DivisionResults
  intro s d a b
  refine ⟨fun h => ?_, fun h => ?_, fun h => ?_⟩
  · rw [exec_div h, divS_eq]
  · rw [exec_divu h, divU]
  · rw [exec_rem h, remS_eq]

/-! ### Bit fields -/

/-- A bit of an extracted field; past bit 63 of the source the field is truncated. -/
theorem getLsbD_bfx (v : Word) {o w j : Nat} (hj : j < 64) :
    (bfx v o w).getLsbD j = (decide (j < w) && v.getLsbD (o + j)) := by
  unfold bfx
  split
  case isTrue h => simp [h]
  case isFalse =>
    simp only [BitVec.getLsbD_ofNat, Nat.testBit_mod_two_pow, Nat.testBit_div_two_pow, BitVec.testBit_toNat, hj,
      decide_true, Bool.true_and, Nat.add_comm j o]
    by_cases hin : o + j < 64
    · have : j < min (o + w) 64 - o ↔ j < w := by omega
      simp [this]
    · simp [BitVec.getLsbD_of_ge v (o + j) (by omega)]

/-- A bit of the mask of `k` bits from bit `o` on. -/
theorem getLsbD_fieldMask (k o : Nat) {j : Nat} (hj : j < 64) :
    (BitVec.ofNat 64 ((2 ^ k - 1) * 2 ^ o)).getLsbD j = decide (o ≤ j ∧ j < o + k) := by
  simp only [BitVec.getLsbD_ofNat, Nat.testBit_mul_two_pow, Nat.testBit_two_pow_sub_one, hj, decide_true, Bool.true_and,
    ← Bool.decide_and, decide_eq_decide]
  omega

/-- A bit of a word with a field inserted: of the source within the field, of the destination elsewhere. -/
theorem getLsbD_bfi (d v : Word) {o w j : Nat} (hj : j < 64) :
    (bfi d v o w).getLsbD j = if o ≤ j ∧ j < o + w then v.getLsbD (j - o) else d.getLsbD j := by
  unfold bfi
  split
  case isTrue h => rw [if_neg (by omega)]
  case isFalse =>
    have hin : (o ≤ j ∧ j < o + (min (o + w) 64 - o)) ↔ (o ≤ j ∧ j < o + w) := by omega
    simp only [BitVec.getLsbD_or, BitVec.getLsbD_and, BitVec.getLsbD_not, BitVec.getLsbD_shiftLeft,
      getLsbD_fieldMask _ _ hj, hin]
    by_cases hf : o ≤ j ∧ j < o + w
    · simp [hf, hj]
    · simp [hf, hj]

/-- Settles O9: bit by bit in range; out of range the trap of the acting context, whose entry leaves the X registers. -/
theorem bitFieldResults : Obligations.BitFieldResults := by
  unfold Obligations.BitFieldResults
  intro s d a b c
  refine ⟨fun h ho hw => ?_, fun h ho hw => ?_, exec_bfx_outOfRange, exec_bfi_outOfRange, fun t e hcur hframe hok => ?_⟩
  · exact ⟨_, exec_bfx_inRange h ho hw, fun j hj => getLsbD_bfx _ hj⟩
  · exact ⟨_, exec_bfi_inRange h ho hw, fun j hj => getLsbD_bfi _ _ hj⟩
  · rw [State.trapCur_cx .illegalOperand hcur hframe hok]
    exact ⟨Ctx.entered_xs .., rfl⟩

end Sys2Proof.Machine
end
